-- ==== Sys2Proof/Word.lean ====
section
/-! DEFINITION. The words of the ChaCha20 core: the 32-bit word, the byte and the 67-bit host port
word (spec rules R12 and R80).  Arithmetic on them stands in Machine/Cipher.lean and byte order in
Machine/Operands.lean. -/

namespace Sys2Proof

/-- A word is an unsigned 32-bit value (R12). -/
abbrev Word := BitVec 32

/-- A byte is an unsigned 8-bit value (R12). -/
abbrev Byte := BitVec 8

/-- One host port transaction, `{sel[1:0], we, addr[31:0], wdata[31:0]}` (R80, format `HOST`). -/
abbrev HostWord := BitVec 67

end Sys2Proof
end

