-- ==== Sys2Proof/Syntax.lean ====
section
/-! DEFINITION. The instructions of the core, in the spec's three senses (rule R3): host port
transactions, command words and hidden micro-operations; one constructor per row of the opcode
table.  Register numbers become register names here (rule R82). -/

namespace Sys2Proof

/-- The registers of the host port by name (R82).  The reserved numbers have no name. -/
inductive Reg where
  | cmd
  | status
  | err
  | olen
  | klen
  | len
  | ctrLo
  | ctrHi
  | nonceLo
  | nonceHi
  | keyin (j : Fin 8)
  | blk (j : Fin 16)
deriving DecidableEq, Repr

/-- Every row of the opcode table. -/
inductive Instr where
  /-- `RD rn` (R178). -/
  | rd (r : Reg)
  /-- `WR rn, v` (R179); a write of `CMD` starts the command `v` (R176). -/
  | wr (r : Reg) (v : Word)
  /-- `WIN a, b` (R180). -/
  | win (a : Word) (b : Byte)
  /-- `ROUT a` (R181). -/
  | rout (a : Word)
  /-- `NEW` (R172). -/
  | new
  /-- `BLOCK` (R151). -/
  | block
  /-- `KEYSTREAM` (R173). -/
  | keystream
  /-- `ENCRYPT` (R174). -/
  | encrypt
  /-- `DECRYPT` (R175). -/
  | decrypt
  /-- `U_QR0` (R120). -/
  | uQr0
  /-- `U_QR1` (R121). -/
  | uQr1
  /-- `U_QR2` (R122). -/
  | uQr2
  /-- `U_QR3` (R123). -/
  | uQr3
  /-- `U_QR4` (R124). -/
  | uQr4
  /-- `U_QR5` (R125). -/
  | uQr5
  /-- `U_QR6` (R126). -/
  | uQr6
  /-- `U_QR7` (R127). -/
  | uQr7
  /-- `U_INIT` (R149). -/
  | uInit
  /-- `U_FINAL` (R150). -/
  | uFinal
  /-- `U_EMIT` (R182). -/
  | uEmit
deriving DecidableEq, Repr

/-- The five commands (R84), the instructions a write of `CMD` can start. -/
inductive Command where
  | new
  | block
  | keystream
  | encrypt
  | decrypt
deriving DecidableEq, Repr

/-- A command as an instruction. -/
def Command.instr : Command → Instr
  | .new => .new
  | .block => .block
  | .keystream => .keystream
  | .encrypt => .encrypt
  | .decrypt => .decrypt

/-- Where a word arrives, which is what tells the formats apart (R80, R95, R98). -/
inductive Format where
  /-- the host port, 67 bits -/
  | host
  /-- the data of a write of `CMD`, 32 bits -/
  | cmd
  /-- the constant schedule table, 16 bits -/
  | sched16
  /-- the listing number of the sequencer phase, 3 bits -/
  | seq
deriving DecidableEq, Repr

/-- How many bits a word of the format has. -/
def Format.width : Format → Nat
  | .host => 67
  | .cmd => 32
  | .sched16 => 16
  | .seq => 3

/-- The format each instruction is written in. -/
def Instr.format : Instr → Format
  | .rd _ | .wr _ _ | .win _ _ | .rout _ => .host
  | .new | .block | .keystream | .encrypt | .decrypt => .cmd
  | .uQr0 | .uQr1 | .uQr2 | .uQr3 | .uQr4 | .uQr5 | .uQr6 | .uQr7 => .sched16
  | .uInit | .uFinal | .uEmit => .seq

end Sys2Proof
end

