-- ==== Sys2Proof/WellFormed.lean ====
section
/-! DEFINITION. Which instructions a core with a given `LEN_W` accepts: a byte address must be below
2^`LEN_W` (spec rules R62, R80, R81).  Register names are well formed by their type: a reserved
number has none. -/

namespace Sys2Proof

/-- A byte address of `IN` or `OUT` is below 2^`LEN_W` (R50, R62). -/
def addrInRange (lenW : Nat) (a : Word) : Bool := a.toNat < 2 ^ lenW

/-- The instruction can be issued to a core with this `LEN_W` (R81). -/
def Instr.wellFormed (lenW : Nat) : Instr → Bool
  | .win a _ => addrInRange lenW a
  | .rout a => addrInRange lenW a
  | .rd _ => true
  | .wr _ _ => true
  | .new | .block | .keystream | .encrypt | .decrypt => true
  | .uQr0 | .uQr1 | .uQr2 | .uQr3 | .uQr4 | .uQr5 | .uQr6 | .uQr7 => true
  | .uInit | .uFinal | .uEmit => true

end Sys2Proof
end

