-- ==== Sys2Proof/Decode.lean ====
section
/-! DEFINITION. The decoder of the four word formats, total and rejecting by name, and after it the
encoder, written from the same tables (spec rules R80 to R86, R93 to R95, R98). -/

namespace Sys2Proof

/-- Why a word is no instruction. -/
inductive DecodeError where
  /-- a reserved register number, or `addr[31:6] != 0` on `REG` (R81, R86) -/
  | reservedRegister
  /-- a reserved `sel`, `we` combination (R81) -/
  | reservedTransaction
  /-- a command word with `opc` not 1 to 5 or `zero != 0` (R85) -/
  | illegalCommand
  /-- no word of the schedule table (R94) -/
  | notScheduled
  /-- no phase with a micro-operation: `IDLE` or a number that names no phase (R95) -/
  | noMicroOperation
  /-- more bits than the format has -/
  | tooWide
deriving DecidableEq, Repr

/-! ### Fields -/

/-- `sel`, bits 66:65 (R80). -/
def HostWord.sel (w : HostWord) : BitVec 2 := w.extractLsb' 65 2
/-- `we`, bit 64 (R80). -/
def HostWord.we (w : HostWord) : Bool := w.getLsbD 64
/-- `addr`, bits 63:32 (R80). -/
def HostWord.addr (w : HostWord) : Word := w.extractLsb' 32 32
/-- `wdata`, bits 31:0 (R80). -/
def HostWord.wdata (w : HostWord) : Word := w.extractLsb' 0 32

/-- The register map (R82); `none` for the reserved numbers (R86) and for numbers no register
has. -/
def regOfNumber (n : Nat) : Option Reg :=
  match n with
  | 0 => some .cmd
  | 1 => some .status
  | 2 => some .err
  | 3 => some .olen
  | 4 => some .klen
  | 5 => some .len
  | 6 => some .ctrLo
  | 7 => some .ctrHi
  | 8 => some .nonceLo
  | 9 => some .nonceHi
  | n =>
    if h : 16 ≤ n ∧ n < 24 then some (.keyin ⟨n - 16, by omega⟩)
    else if h : 32 ≤ n ∧ n < 48 then some (.blk ⟨n - 32, by omega⟩)
    else none

/-- `rn = addr[5:0]` with `addr[31:6] = 0` (R81). -/
def decodeReg (addr : Word) : Option Reg :=
  if addr.extractLsb' 6 26 = 0 then regOfNumber (addr.extractLsb' 0 6).toNat else none

/-- Format `HOST`: exactly four transactions (R81). -/
def decodeHost (w : HostWord) : Except DecodeError Instr :=
  match w.sel.toNat, w.we with
  | 0, false =>
    match decodeReg w.addr with
    | some r => .ok (.rd r)
    | none => .error .reservedRegister
  | 0, true =>
    match decodeReg w.addr with
    | some r => .ok (.wr r w.wdata)
    | none => .error .reservedRegister
  | 1, true => .ok (.win w.addr (w.wdata.extractLsb' 0 8))
  | 2, false => .ok (.rout w.addr)
  | _, _ => .error .reservedTransaction

/-- Format `CMD`: `zero = w[31:4]` must be 0, `opc = w[3:0]` one of five (R83 to R85). -/
def decodeCommand (w : Word) : Option Command :=
  if w.extractLsb' 4 28 = 0 then
    match (w.extractLsb' 0 4).toNat with
    | 1 => some .new
    | 2 => some .block
    | 3 => some .keystream
    | 4 => some .encrypt
    | 5 => some .decrypt
    | _ => none
  else none

/-- Format `SCHED16`: the eight words of the schedule table (R94). -/
def decodeSched (w : Nat) : Except DecodeError Instr :=
  match w with
  | 0x048C => .ok .uQr0
  | 0x159D => .ok .uQr1
  | 0x26AE => .ok .uQr2
  | 0x37BF => .ok .uQr3
  | 0x05AF => .ok .uQr4
  | 0x16BC => .ok .uQr5
  | 0x278D => .ok .uQr6
  | 0x349E => .ok .uQr7
  | _ => .error .notScheduled

/-- Format `SEQ`: the listing number of `PH` (R95); `ROUND` = 2 is selected by its schedule word. -/
def decodeSeq (w : Nat) : Except DecodeError Instr :=
  match w with
  | 1 => .ok .uInit
  | 3 => .ok .uFinal
  | 4 => .ok .uEmit
  | _ => .error .noMicroOperation

/-- The decoder: a word and where it arrives (R98). -/
def decode (f : Format) (w : Nat) : Except DecodeError Instr :=
  if w < 2 ^ f.width then
    match f with
    | .host => decodeHost (BitVec.ofNat 67 w)
    | .cmd =>
      match decodeCommand (BitVec.ofNat 32 w) with
      | some c => .ok c.instr
      | none => .error .illegalCommand
    | .sched16 => decodeSched w
    | .seq => decodeSeq w
  else .error .tooWide

/-- The format of a table row, told from how many bits the row has: 3, 16, 32 or 67. -/
def Format.ofBits (nbits : Nat) : Format :=
  if nbits ≤ 8 then .seq else if nbits ≤ 16 then .sched16 else if nbits ≤ 32 then .cmd else .host

/-- What the decoder reads from a word of the opcode table. -/
def decodeTableWord (nbits w : Nat) : Option Instr :=
  match decode (Format.ofBits nbits) w with
  | .ok i => some i
  | .error _ => none

/-! ### The encoder -/

/-- The register numbers (R82). -/
def Reg.number : Reg → Nat
  | .cmd => 0
  | .status => 1
  | .err => 2
  | .olen => 3
  | .klen => 4
  | .len => 5
  | .ctrLo => 6
  | .ctrHi => 7
  | .nonceLo => 8
  | .nonceHi => 9
  | .keyin j => 16 + j.val
  | .blk j => 32 + j.val

/-- A `HOST` word from its four fields (R80). -/
def hostWord (sel : BitVec 2) (we : Bool) (addr wdata : Word) : HostWord :=
  sel ++ BitVec.ofBool we ++ addr ++ wdata

/-- The opcodes (R84). -/
def Command.opcode : Command → BitVec 4
  | .new => 1
  | .block => 2
  | .keystream => 3
  | .encrypt => 4
  | .decrypt => 5

/-- A command word: `zero` = 0, `opc` (R84). -/
def Command.word (c : Command) : Word := c.opcode.zeroExtend 32

/-- The word of an instruction in its own format; ignored bits are written as 0. -/
def encode : Instr → Nat
  | .rd r => (hostWord 0 false (BitVec.ofNat 32 r.number) 0).toNat
  | .wr r v => (hostWord 0 true (BitVec.ofNat 32 r.number) v).toNat
  | .win a b => (hostWord 1 true a (b.zeroExtend 32)).toNat
  | .rout a => (hostWord 2 false a 0).toNat
  | .new => Command.new.word.toNat
  | .block => Command.block.word.toNat
  | .keystream => Command.keystream.word.toNat
  | .encrypt => Command.encrypt.word.toNat
  | .decrypt => Command.decrypt.word.toNat
  | .uQr0 => 0x048C
  | .uQr1 => 0x159D
  | .uQr2 => 0x26AE
  | .uQr3 => 0x37BF
  | .uQr4 => 0x05AF
  | .uQr5 => 0x16BC
  | .uQr6 => 0x278D
  | .uQr7 => 0x349E
  | .uInit => 1
  | .uFinal => 3
  | .uEmit => 4

/-! ### The opcode table -/

/-- A row of the opcode table: a word of the format is the row's when its bits under `mask` are
`value`. -/
structure Row where
  format : Format
  value : Nat
  mask : Nat
deriving DecidableEq, Repr

/-- Does a word match a row? -/
def Row.accepts (r : Row) (w : Nat) : Bool := w &&& r.mask == r.value

/-- The row of each instruction, as the opcode table prints it. -/
def Instr.row : Instr → Row
  | .rd _ => ⟨.host, 0x00000000000000000, 0x7FFFFFFC000000000⟩
  | .wr _ _ => ⟨.host, 0x10000000000000000, 0x7FFFFFFC000000000⟩
  | .win _ _ => ⟨.host, 0x30000000000000000, 0x70000000000000000⟩
  | .rout _ => ⟨.host, 0x40000000000000000, 0x70000000000000000⟩
  | .new => ⟨.cmd, 0x00000001, 0xFFFFFFFF⟩
  | .block => ⟨.cmd, 0x00000002, 0xFFFFFFFF⟩
  | .keystream => ⟨.cmd, 0x00000003, 0xFFFFFFFF⟩
  | .encrypt => ⟨.cmd, 0x00000004, 0xFFFFFFFF⟩
  | .decrypt => ⟨.cmd, 0x00000005, 0xFFFFFFFF⟩
  | .uQr0 => ⟨.sched16, 0x048C, 0xFFFF⟩
  | .uQr1 => ⟨.sched16, 0x159D, 0xFFFF⟩
  | .uQr2 => ⟨.sched16, 0x26AE, 0xFFFF⟩
  | .uQr3 => ⟨.sched16, 0x37BF, 0xFFFF⟩
  | .uQr4 => ⟨.sched16, 0x05AF, 0xFFFF⟩
  | .uQr5 => ⟨.sched16, 0x16BC, 0xFFFF⟩
  | .uQr6 => ⟨.sched16, 0x278D, 0xFFFF⟩
  | .uQr7 => ⟨.sched16, 0x349E, 0xFFFF⟩
  | .uInit => ⟨.seq, 0x1, 0x7⟩
  | .uFinal => ⟨.seq, 0x3, 0x7⟩
  | .uEmit => ⟨.seq, 0x4, 0x7⟩

end Sys2Proof
end

