-- ==== Sys2Proof/Machine/Cipher.lean ====
section
/-! DEFINITION. The functions of the cipher, the normative description of every value the core
computes: the quarter-round datapath, the block function, serialisation, keystream and processing
(spec rules R110 to R119, R140 to R148, R170, R171, and the byte order of R16 and R56). -/

namespace Sys2Proof.Machine

/-! ### Little-endian packing (R16) -/

/-- `le32(b0, b1, b2, b3)`: the byte that comes first is the low byte. -/
def le32 (b0 b1 b2 b3 : Byte) : Word := b3 ++ b2 ++ b1 ++ b0

/-- `bytes32(w)`, low byte first. -/
def bytes32 (w : Word) : List Byte :=
  [w.extractLsb' 0 8, w.extractLsb' 8 8, w.extractLsb' 16 8, w.extractLsb' 24 8]

/-- `u64(lo, hi) = lo + 2^32 * hi`. -/
def u64 (lo hi : Word) : Nat := lo.toNat + 2 ^ 32 * hi.toNat

/-- `lo32(v) = v[31:0]`. -/
def lo32 (v : Nat) : Word := BitVec.ofNat 32 v

/-- `hi32(v) = v[63:32]`. -/
def hi32 (v : Nat) : Word := BitVec.ofNat 32 (v / 2 ^ 32)

/-! ### Primitives of the datapath -/

/-- `add32` (R110): addition modulo 2^32, never an error. -/
def add32 (a b : Word) : Word := a + b

/-- `xor32` (R111). -/
def xor32 (a b : Word) : Word := a ^^^ b

/-- `xor8`, the same on bytes (R111). -/
def xor8 (a b : Byte) : Byte := a ^^^ b

/-- `rotl32` (R112): the amount is taken modulo 32 and a rotation by 0 is a no-op. -/
def rotl32 (x : Word) (n : Nat) : Word :=
  if n % 32 = 0 then x else (x <<< (n % 32)) ||| (x >>> (32 - n % 32))

/-- The rotation amounts (R7, R113). -/
def rot : Vector Nat 4 := #v[16, 12, 8, 7]

/-- `QR(a, b, c, d)` (R113). -/
def qr (a b c d : Word) : Word × Word × Word × Word :=
  let a1 := add32 a b
  let d1 := rotl32 (xor32 d a1) rot[0]
  let c1 := add32 c d1
  let b1 := rotl32 (xor32 b c1) rot[1]
  let a2 := add32 a1 b1
  let d2 := rotl32 (xor32 d1 a2) rot[2]
  let c2 := add32 c1 d2
  let b2 := rotl32 (xor32 b1 c2) rot[3]
  (a2, b2, c2, d2)

/-! ### The schedule and the double round -/

/-- An index group of the schedule (R93): which four words a quarter round takes. -/
structure Group where
  a : Fin 16
  b : Fin 16
  c : Fin 16
  d : Fin 16
deriving DecidableEq, Repr

/-- The schedule `SCHED[0..7]` (R115): four columns, then four diagonals. -/
def sched : Vector Group 8 :=
  #v[⟨0, 4, 8, 12⟩, ⟨1, 5, 9, 13⟩, ⟨2, 6, 10, 14⟩, ⟨3, 7, 11, 15⟩,
    ⟨0, 5, 10, 15⟩, ⟨1, 6, 11, 12⟩, ⟨2, 7, 8, 13⟩, ⟨3, 4, 9, 14⟩]

/-- A schedule word `{a, b, c, d}`, four bits an index (R80, R93). -/
def Group.word (g : Group) : Nat :=
  4096 * g.a.val + 256 * g.b.val + 16 * g.c.val + g.d.val

/-- `QRS(X, (a, b, c, d))` (R114): a quarter round on four words of an array. -/
def qrs (x : Vector Word 16) (g : Group) : Vector Word 16 :=
  let r := qr x[g.a] x[g.b] x[g.c] x[g.d]
  (((x.set g.a r.1).set g.b r.2.1).set g.c r.2.2.1).set g.d r.2.2.2

/-- `COL(X)` (R116). -/
def colRound (x : Vector Word 16) : Vector Word 16 :=
  qrs (qrs (qrs (qrs x sched[0]) sched[1]) sched[2]) sched[3]

/-- `DIAG(X)` (R117). -/
def diagRound (x : Vector Word 16) : Vector Word 16 :=
  qrs (qrs (qrs (qrs x sched[4]) sched[5]) sched[6]) sched[7]

/-- `DR(X) = DIAG(COL(X))` (R118). -/
def doubleRound (x : Vector Word 16) : Vector Word 16 := diagRound (colRound x)

/-! ### The block function -/

/-- The constant words `C[0..3]`, "expand 32-byte k" (R140). -/
def constants : Vector Word 4 := #v[0x61707865, 0x3320646e, 0x79622d32, 0x6b206574]

/-- `init_state(K, N, c)` (R144): constants, key, counter, nonce. -/
def initState (k : Vector Word 8) (n : Vector Word 2) (c : Nat) : Vector Word 16 :=
  #v[constants[0], constants[1], constants[2], constants[3],
    k[0], k[1], k[2], k[3], k[4], k[5], k[6], k[7],
    lo32 c, hi32 c, n[0], n[1]]

/-- The double round applied `r` times. -/
def doubleRounds : Nat → Vector Word 16 → Vector Word 16
  | 0, x => x
  | r + 1, x => doubleRounds r (doubleRound x)

/-- `rounds(S)`: ten double rounds on a copy (R145). -/
def rounds (s : Vector Word 16) : Vector Word 16 := doubleRounds 10 s

/-- The feed-forward addition, word by word (R146). -/
def feedForward (x s : Vector Word 16) : Vector Word 16 := Vector.ofFn fun j => add32 x[j] s[j]

/-- `block(K, N, c)` (R146). -/
def block (k : Vector Word 8) (n : Vector Word 2) (c : Nat) : Vector Word 16 :=
  feedForward (rounds (initState k n c)) (initState k n c)

/-- `serialize(W)` (R147): each word little-endian, in array order. -/
def serialize (w : Vector Word 16) : List Byte := w.toList.flatMap bytes32

/-- `block_bytes(K, N, c)` (R148). -/
def blockBytes (k : Vector Word 8) (n : Vector Word 2) (c : Nat) : List Byte :=
  serialize (block k n c)

/-! ### Keystream and processing -/

/-- `ceil(n / 64)` (R14). -/
def nblk (n : Nat) : Nat := (n + 63) / 64

/-- A request of `n` bytes from counter `c0` would pass 2^64 - 1 (R223): an exact sum. -/
def counterOverflows (n c0 : Nat) : Bool := 1 ≤ nblk n && 2 ^ 64 - 1 < c0 + (nblk n - 1)

/-- The concatenation of `b` blocks from counter `c0` on. -/
def blocksFrom (k : Vector Word 8) (n : Vector Word 2) (c0 b : Nat) : List Byte :=
  (List.range b).flatMap fun i => blockBytes k n (c0 + i)

/-- The bytes of `keystream(K, N, n, c0)` where it is defined (R170): whole blocks, cut to length
(R195). -/
def keystreamBytes (k : Vector Word 8) (n : Vector Word 2) (len c0 : Nat) : List Byte :=
  (blocksFrom k n c0 (nblk len)).take len

/-- `keystream(K, N, n, c0)` (R170): it has no value when the counter would overflow. -/
def keystream (k : Vector Word 8) (n : Vector Word 2) (len c0 : Nat) : Option (List Byte) :=
  if counterOverflows len c0 then none else some (keystreamBytes k n len c0)

/-- Byte-wise exclusive OR of data and keystream (R171). -/
def xorBytes (data ks : List Byte) : List Byte := data.zipWith xor8 ks

/-- `process(K, N, data, c0)` (R171): defined exactly when the keystream is. -/
def process (k : Vector Word 8) (n : Vector Word 2) (data : List Byte) (c0 : Nat) :
    Option (List Byte) :=
  (keystream k n data.length c0).map (xorBytes data)

end Sys2Proof.Machine
end

