-- ==== Sys2Proof/Config.lean ====
section
/-! DEFINITION. What is fixed for one machine (the parameter `LEN_W` and which of the two
descriptions of a command the model follows) and the free values: constants without a body, of
which no proof can know a value (spec rules R8, R11, R31, R33, R80; 93_implementation_defined.md U4,
U11). -/

namespace Sys2Proof

/-- The two descriptions of a command (R11): `functional` runs a command as its pseudocode in one
step; `sequenced` starts the sequencer, which runs one micro-operation a step. -/
inductive Level where
  | functional
  | sequenced
deriving DecidableEq, Repr

/-- What one machine fixes.  No step writes it. -/
structure Params where
  /-- `LEN_W`, the width of the length operand, 1 to 32 (R8, D6). -/
  lenW : Nat
  /-- Which description of rule R11 a command follows (notes/assumptions/3.md). -/
  level : Level
deriving DecidableEq, Repr

/-- The parameters `State.reset` has: `LEN_W` = 32 (R8), commands atomic (R10). -/
def Config.params : Params := { lenW := 32, level := .functional }

/-- Free value: what `X` holds after the last micro-operation of a command (R31, U4). -/
opaque Config.freeX : Nat → Vector Word 16

/-- Free value: what `S` holds after the last micro-operation of a command (R33, U4). -/
opaque Config.freeS : Nat → Vector Word 16

/-- Free value: what `OPC` holds once a command has ended (R32, U4). -/
opaque Config.freeOpc : Nat → BitVec 4

/-- Free value: the response lines of a host write (R80 "Undefined on writes", U11). -/
opaque Config.freeRdata : Nat → Word

end Sys2Proof
end

