-- ==== Sys2Proof/Machine/Memory.lean ====
section
/-! DEFINITION. A byte space of the core (`IN` or `OUT`, spec rules R50, R52, R53): a list of
(address, byte) pairs in one canonical form, read and written a byte at a time (R58, R59). -/

namespace Sys2Proof.Machine

/-- The bytes of one space that differ from what an unlisted address reads as. -/
abbrev Memory := List Host.Cell

/-- What an unlisted address reads as (DESIGN CHOICE, notes/assumptions/2.md: the spec leaves every
byte of `IN` and `OUT` unspecified at reset, R38). -/
def Memory.fill : Byte := 0xA5

/-- The byte at an address. -/
def Memory.read : Memory → Nat → Byte
  | [], _ => Memory.fill
  | (b, v) :: m, a => if a = b then v else Memory.read m a

/-- Write one byte; the byte an unlisted address reads as is not listed. -/
def Memory.write : Memory → Nat → Byte → Memory
  | [], a, v => if v = Memory.fill then [] else [(a, v)]
  | (b, w) :: m, a, v =>
    if a < b then
      if v = Memory.fill then (b, w) :: m else (a, v) :: (b, w) :: m
    else if a = b then
      if v = Memory.fill then m else (a, v) :: m
    else (b, w) :: Memory.write m a v

/-- `MemWrite(space, a, n, v)` (R17): the bytes go to `a`, `a + 1`, … -/
def Memory.writeBytes : Memory → Nat → List Byte → Memory
  | m, _, [] => m
  | m, a, v :: vs => Memory.writeBytes (Memory.write m a v) (a + 1) vs

/-- `MemRead(space, a, n)` (R17): the `n` bytes at `a .. a + n - 1`. -/
def Memory.readBytes (m : Memory) (a n : Nat) : List Byte :=
  (List.range n).map fun i => Memory.read m (a + i)

/-- The canonical form: addresses strictly rising, no entry an unlisted address would read as. -/
def Memory.wf : Memory → Bool
  | [] => true
  | (a, v) :: m => v != Memory.fill && m.all (fun c => a < c.1) && Memory.wf m

/-- Every listed address is below `bound`. -/
def Memory.within (bound : Nat) (m : Memory) : Bool := m.all fun c => c.1 < bound

/-- The space of 2^`lenW` bytes with the given contents; cells at addresses the space does not have
are dropped, a later cell for an address wins. -/
def Memory.ofCells (lenW : Nat) (cells : List Host.Cell) : Memory :=
  cells.foldl (fun m c => if c.1 < 2 ^ lenW then Memory.write m c.1 c.2 else m) []

end Sys2Proof.Machine
end

