-- ==== Sys2Proof/Machine/State.lean ====
section
/-! DEFINITION. The state of the core (spec rule R20), the host port at its edge (R80), the reasons a
step can stop (R223, R236), and the state after reset (R38, R250). -/

namespace Sys2Proof.Machine

/-- The sequencer phases (R32, R95). -/
inductive Phase where
  | idle
  | init
  | round
  | final
  | emit
deriving DecidableEq, Repr

/-- The sequencer position `(PH, BI, DR, QI)`, the core's program counter (R32). -/
structure Pos where
  ph : Phase
  bi : Nat
  dr : Fin 10
  qi : Fin 8
deriving DecidableEq, Repr

/-- `(IDLE, 0, 0, 0)`, the position between commands (R32). -/
def Pos.idle : Pos := { ph := .idle, bi := 0, dr := 0, qi := 0 }

/-- The outcome of a command (R220); codes 5 to 15 are never produced (U10). -/
inductive ErrCode where
  | ok
  | invalidKeyLength
  | notConfigured
  | counterOverflow
  | illegalCommand
deriving DecidableEq, Repr

/-- The values rule R38 leaves unspecified at reset, drawn by each reset under no law (U2). -/
structure ResetDraw where
  nonceLo : Word
  nonceHi : Word
  keyin : Vector Word 8
  k : Vector Word 8
  n : Vector Word 2
  blk : Vector Word 16
  x : Vector Word 16
  saved : Vector Word 16
  opc : BitVec 4
  rdata : Word
  /-- contents of `IN` -/
  inCells : List Host.Cell
  /-- contents of `OUT` -/
  outCells : List Host.Cell
deriving DecidableEq, Repr

/-- Why the machine stops. -/
inductive Fault where
  /-- Raised by `U_INIT` when `counter_init + BI` passes 2^64 - 1, which the document calls undefined
  (R223, U1).  Safe: the pre-checks of rule R177 keep every run away from it. -/
  | counterOverflow
deriving DecidableEq, Repr

/-- Why an instruction or a transaction is given no meaning. -/
inductive Refusal where
  /-- Raised by exec's arm of an instruction without a meaning (no arm does).  Safe. -/
  | notModelled (mnemonic : String)
  /-- Raised by the step for a reserved register number or `addr[31:6] != 0` (R86, R236).  Safe. -/
  | reservedRegister
  /-- Raised by the step for a reserved `sel`, `we` combination (R81, R236).  Safe. -/
  | reservedTransaction
  /-- Raised by `WIN` and `ROUT` for an address at or above 2^`LEN_W` (R62, R236).  Safe. -/
  | addressOutOfRange
deriving DecidableEq, Repr

/-- The complete state (R20), then the host port and the model's own fields. -/
structure State where
  /-- `LEN_W` and the level of description; no step writes it. -/
  params : Params
  /-- `K[0..7]`, the key words of the instance (R21). -/
  k : Vector Word 8
  /-- `N[0..1]`, the nonce words of the instance, low word first (R22). -/
  n : Vector Word 2
  /-- `VALID` (R23). -/
  valid : Bool
  /-- `KEYIN[0..7]`, the staged key (R24). -/
  keyin : Vector Word 8
  /-- `KLEN`, the staged key length in bytes (R25). -/
  klen : Word
  /-- `NONCE_LO` (R26). -/
  nonceLo : Word
  /-- `NONCE_HI` (R26). -/
  nonceHi : Word
  /-- `CTR_LO` (R27). -/
  ctrLo : Word
  /-- `CTR_HI` (R27). -/
  ctrHi : Word
  /-- `LEN`, `LEN_W` bits, zero extended (R28). -/
  len : Word
  /-- `ERR` (R29). -/
  err : ErrCode
  /-- `OLEN`, `LEN_W` bits, zero extended (R29). -/
  olen : Word
  /-- `BLK[0..15]` (R30). -/
  blk : Vector Word 16
  /-- the byte space `IN` (R52). -/
  inMem : Memory
  /-- the byte space `OUT` (R53). -/
  outMem : Memory
  /-- `X[0..15]`, the working registers (R31). -/
  x : Vector Word 16
  /-- `S[0..15]`, the initial state kept for the feed-forward (R33). -/
  saved : Vector Word 16
  /-- `(PH, BI, DR, QI)` (R32). -/
  pos : Pos
  /-- `OPC`, the opcode of the command in progress (R32). -/
  opc : BitVec 4
  /-- the transactions the host issues, in issue order; the core accepts the first when idle (R64) -/
  port : List HostWord
  /-- `rdata`, the response to the last transaction (R80). -/
  rdata : Word
  /-- a reset from outside, with what it draws, taken before anything else (R250) -/
  resetIn : Option ResetDraw
  /-- the model's own: how many free values have been used -/
  draws : Nat
  /-- the model's own: some request ran the counter past 2^64 - 1 (U1) -/
  overflowMark : Bool
deriving DecidableEq, Repr

/-- The state after a reset that draws `d` (R38, R250), with nothing presented by the host. -/
def State.resetTo (p : Params) (d : ResetDraw) : State where
  params := p
  k := d.k
  n := d.n
  valid := false
  keyin := d.keyin
  klen := 0
  nonceLo := d.nonceLo
  nonceHi := d.nonceHi
  ctrLo := 0
  ctrHi := 0
  len := 0
  err := .ok
  olen := 0
  blk := d.blk
  inMem := Memory.ofCells p.lenW d.inCells
  outMem := Memory.ofCells p.lenW d.outCells
  x := d.x
  saved := d.saved
  pos := Pos.idle
  opc := d.opc
  port := []
  rdata := d.rdata
  resetIn := none
  draws := 0
  overflowMark := false

/-- The draw `State.reset` uses (DESIGN CHOICE, notes/assumptions/1.md: the spec gives no values
here and asks that they not be zero, U2). -/
def ResetDraw.named : ResetDraw where
  nonceLo := 0xA5A5A5A5
  nonceHi := 0xA5A5A5A5
  keyin := Vector.replicate 8 0xA5A5A5A5
  k := Vector.replicate 8 0xA5A5A5A5
  n := Vector.replicate 2 0xA5A5A5A5
  blk := Vector.replicate 16 0xA5A5A5A5
  x := Vector.replicate 16 0xA5A5A5A5
  saved := Vector.replicate 16 0xA5A5A5A5
  opc := 0xA
  rdata := 0xA5A5A5A5
  inCells := []
  outCells := []

/-- The machine right after reset (R38). -/
def State.reset : State := State.resetTo Config.params ResetDraw.named

end Sys2Proof.Machine
end

