-- ==== Sys2Proof/Machine/Flags.lean ====
section
/-! DEFINITION. The status bits and outcome codes (spec rules R34, R87, R88, R220).  The datapath has
no condition codes (R34, R128). -/

namespace Sys2Proof.Machine

/-- The numbers of the outcomes (R220). -/
def ErrCode.code : ErrCode → BitVec 4
  | .ok => 0
  | .invalidKeyLength => 1
  | .notConfigured => 2
  | .counterOverflow => 3
  | .illegalCommand => 4

/-- `ERRF` = 1 when `ERR != 0` (R34). -/
def State.errf (s : State) : Bool := s.err != .ok

/-- `STATUS` = {0[29:0], ERRF, VALID}, a view of `VALID` and `ERR` (R34, R87). -/
def State.statusWord (s : State) : Word :=
  (BitVec.ofBool s.errf ++ BitVec.ofBool s.valid).zeroExtend 32

end Sys2Proof.Machine
end

