-- ==== Sys2Proof/Machine/Operands.lean ====
section
/-! DEFINITION. How operands are assembled from the registers and how the host port reads and writes
a register: the one home of every access rule of the register map (spec rules R82, R86 to R92, R100,
R178, R179). -/

namespace Sys2Proof.Machine

/-- `counter_init = u64(CTR_LO, CTR_HI)` (R27, R90). -/
def State.ctr (s : State) : Nat := u64 s.ctrLo s.ctrHi

/-- The number of blocks of a data command, `ceil(LEN / 64)` (R37). -/
def State.nblk (s : State) : Nat := Machine.nblk s.len.toNat

/-- `v[LEN_W-1 : 0]`, zero extended (R28, R89). -/
def keepLow (lenW : Nat) (v : Word) : Word := BitVec.ofNat 32 (v.toNat % 2 ^ lenW)

/-- What `RD` answers (R178): write-only registers read 0. -/
def State.readReg (s : State) : Reg → Word
  | .cmd => 0
  | .status => s.statusWord
  | .err => s.err.code.zeroExtend 32
  | .olen => s.olen
  | .klen => s.klen
  | .len => s.len
  | .ctrLo => s.ctrLo
  | .ctrHi => s.ctrHi
  | .nonceLo => s.nonceLo
  | .nonceHi => s.nonceHi
  | .keyin _ => 0
  | .blk j => s.blk[j]

/-- What `WR` does to a register other than `CMD` (R179): a write of a read-only register is
ignored.  `CMD` itself stores nothing (R36). -/
def State.writeReg (s : State) (r : Reg) (v : Word) : State :=
  match r with
  | .cmd => s
  | .status => s
  | .err => s
  | .olen => s
  | .klen => { s with klen := v }
  | .len => { s with len := keepLow s.params.lenW v }
  | .ctrLo => { s with ctrLo := v }
  | .ctrHi => { s with ctrHi := v }
  | .nonceLo => { s with nonceLo := v }
  | .nonceHi => { s with nonceHi := v }
  | .keyin j => { s with keyin := s.keyin.set j v }
  | .blk _ => s

end Sys2Proof.Machine
end

