-- ==== Sys2Proof/Machine/Ops.lean ====
section
/-! DEFINITION. The operations the meanings share: raising an error (the core's only exception, spec
rule R228; there is no return from one, R230), ending and starting a command (R176, R183, R184), the
pre-checks (R177), the moves of the sequencer position (R184), storing output (R53), answering the
host (R80) and the reset event (R250). -/

namespace Sys2Proof.Machine

/-- What a meaning answers. -/
abbrev Outcome := Host.Outcome State Fault Refusal

/-! ### The sequencer position (R184) -/

/-- Dispatch of a command that computes blocks, pre-checks passed. -/
def Pos.start : Pos := { ph := .init, bi := 0, dr := 0, qi := 0 }

/-- After `U_INIT`. -/
def Pos.afterInit (p : Pos) : Pos := { ph := .round, bi := p.bi, dr := 0, qi := 0 }

/-- After `U_QRq`: the next quarter round, the next double round, or the final addition. -/
def Pos.afterQr (p : Pos) (q : Fin 8) : Pos :=
  if h : q.val < 7 then { ph := .round, bi := p.bi, dr := p.dr, qi := ⟨q.val + 1, by omega⟩ }
  else if h' : p.dr.val < 9 then { ph := .round, bi := p.bi, dr := ⟨p.dr.val + 1, by omega⟩, qi := 0 }
  else { ph := .final, bi := p.bi, dr := 0, qi := 0 }

/-- After `U_FINAL`. -/
def Pos.afterFinal (p : Pos) : Pos := { ph := .emit, bi := p.bi, dr := 0, qi := 0 }

/-- After `U_EMIT` when another block follows. -/
def Pos.nextBlock (p : Pos) : Pos := { ph := .init, bi := p.bi + 1, dr := 0, qi := 0 }

/-! ### Hidden state whose value is not defined once a command has ended (U4) -/

/-- `OPC` has a meaning only while `PH != IDLE` (R32): a free value afterwards. -/
def State.unlatchOpc (s : State) : State :=
  { s with opc := Config.freeOpc s.draws, draws := s.draws + 1 }

/-- `X` and `S` are not defined after the last micro-operation of a command (R31, R33): free values
afterwards. -/
def State.dropWork (s : State) : State :=
  { s with x := Config.freeX s.draws, saved := Config.freeS s.draws }

/-! ### The end of a command -/

/-- `raise <Error>` in full (R228): `ERR`, `OLEN`, for `InvalidKeyLength` also `VALID`, and the
sequencer stays idle.  Nothing is saved and control goes nowhere.  `overflowMark` marks the run as
one whose request the document leaves undefined (U1). -/
def State.raise (s : State) (e : ErrCode) : State :=
  { s with
    err := e
    olen := 0
    valid := if e = .invalidKeyLength then false else s.valid
    pos := Pos.idle
    overflowMark := s.overflowMark || e == .counterOverflow }

/-- A legal command word whose pre-check failed: `OPC` was latched (R176) and the command is over. -/
def State.fail (s : State) (e : ErrCode) : State := s.unlatchOpc.raise e

/-- A command that succeeded: `OLEN`, `ERR` and the idle position (R183). -/
def State.complete (s : State) (olen : Word) : State :=
  { s.unlatchOpc with err := .ok, olen := olen, pos := Pos.idle }

/-- A command that computed blocks and succeeded. -/
def State.completeBlocks (s : State) (olen : Word) : State := s.dropWork.complete olen

/-! ### Pre-checks (R177, R227), in the order the errors are reported -/

/-- `NEW`: `InvalidKeyLength` (R221). -/
def State.precheckNew (s : State) : Option ErrCode :=
  if s.klen ≠ 32 then some .invalidKeyLength else none

/-- `BLOCK`: `NotConfigured` (R222). -/
def State.precheckBlock (s : State) : Option ErrCode :=
  if s.valid = false then some .notConfigured else none

/-- The data commands: `NotConfigured`, then `CounterOverflow` (R223, R227). -/
def State.precheckData (s : State) : Option ErrCode :=
  if s.valid = false then some .notConfigured
  else if counterOverflows s.len.toNat s.ctr then some .counterOverflow
  else none

/-! ### Starting the sequencer and storing output -/

/-- Dispatch with the pre-checks passed (R176, R184): latch `OPC`, go to `(INIT, 0, 0, 0)`. -/
def State.dispatch (s : State) (c : Command) : State :=
  { s with opc := c.opcode, pos := Pos.start }

/-- `MemWrite(OUT, a, n, bytes)` (R53). -/
def State.storeOut (s : State) (a : Nat) (bytes : List Byte) : State :=
  { s with outMem := s.outMem.writeBytes a bytes }

/-! ### The host port (R80) and reset (R250) -/

/-- A write answers with undefined response lines (R80, U11): a free value. -/
def State.answerWrite (s : State) : State :=
  { s with rdata := Config.freeRdata s.draws, draws := s.draws + 1 }

/-- A read answers with a word. -/
def State.answerRead (s : State) (v : Word) : State := { s with rdata := v }

/-- The reset event (R250): every piece of the core's state takes its reset value; what the host has
still to issue and the model's own marks stay. -/
def State.applyReset (s : State) (d : ResetDraw) : State :=
  { State.resetTo s.params d with
    port := s.port, draws := s.draws, overflowMark := s.overflowMark }

end Sys2Proof.Machine
end

