-- ==== Sys2Proof/Machine/Datapath.lean ====
section
/-! DEFINITION. The quarter-round micro-operations `U_QR0` to `U_QR7` (spec rules R120 to R127): one
quarter round on the four working registers of a schedule entry. -/

namespace Sys2Proof.Machine

/-- `U_QRq`: the four registers of `SCHED[q]`, and the position table's next position (R184).  No
flag, no exception; every other register is unchanged. -/
def State.quarterRound (s : State) (q : Fin 8) : State :=
  { s with x := qrs s.x sched[q], pos := s.pos.afterQr q }

/-- `U_QR0`, column (0, 4, 8, 12) (R120). -/
def execUQr0 (s : State) : Outcome := .next (s.quarterRound 0)

/-- `U_QR1`, column (1, 5, 9, 13) (R121). -/
def execUQr1 (s : State) : Outcome := .next (s.quarterRound 1)

/-- `U_QR2`, column (2, 6, 10, 14) (R122). -/
def execUQr2 (s : State) : Outcome := .next (s.quarterRound 2)

/-- `U_QR3`, column (3, 7, 11, 15) (R123). -/
def execUQr3 (s : State) : Outcome := .next (s.quarterRound 3)

/-- `U_QR4`, diagonal (0, 5, 10, 15) (R124). -/
def execUQr4 (s : State) : Outcome := .next (s.quarterRound 4)

/-- `U_QR5`, diagonal (1, 6, 11, 12) (R125). -/
def execUQr5 (s : State) : Outcome := .next (s.quarterRound 5)

/-- `U_QR6`, diagonal (2, 7, 8, 13) (R126). -/
def execUQr6 (s : State) : Outcome := .next (s.quarterRound 6)

/-- `U_QR7`, diagonal (3, 4, 9, 14) (R127). -/
def execUQr7 (s : State) : Outcome := .next (s.quarterRound 7)

end Sys2Proof.Machine
end

