-- ==== Sys2Proof/Machine/Commands.lean ====
section
/-! DEFINITION. The five commands `NEW`, `BLOCK`, `KEYSTREAM`, `ENCRYPT`, `DECRYPT` (spec rules R172,
R151, R173 to R175) and the dispatch of a word written to `CMD` (R176).  At the functional level a
command is its pseudocode, in one step; at the sequenced level it starts the sequencer (R11, R183). -/

namespace Sys2Proof.Machine

/-- A successful `NEW`: the staged key and nonce become the instance (R172). -/
def State.construct (s : State) : State :=
  { s with k := s.keyin, n := #v[s.nonceLo, s.nonceHi], valid := true }

/-- `NEW` (R172); it runs no micro-operation. -/
def execNew (s : State) : Outcome :=
  .next (match s.precheckNew with
    | some e => s.fail e
    | none => s.construct.complete 0)

/-- `BLOCK` (R151). -/
def execBlock (s : State) : Outcome :=
  .next (match s.precheckBlock with
    | some e => s.fail e
    | none =>
      match s.params.level with
      | .sequenced => s.dispatch .block
      | .functional => { s with blk := block s.k s.n s.ctr }.completeBlocks 0)

/-- A data command (R173, R174): pre-checks, nothing for an empty request, else the sequencer or the
whole output at once. -/
def State.dataCommand (s : State) (c : Command) (out : List Byte) : State :=
  match s.precheckData with
  | some e => s.fail e
  | none =>
    if s.nblk = 0 then s.complete s.len
    else
      match s.params.level with
      | .sequenced => s.dispatch c
      | .functional => (s.storeOut 0 out).completeBlocks s.len

/-- `keystream(K, N, LEN, counter_init)` of the current operands (R173). -/
def State.keystreamOut (s : State) : List Byte :=
  keystreamBytes s.k s.n s.len.toNat s.ctr

/-- `process(K, N, IN[0 .. LEN-1], counter_init)` of the current operands (R174). -/
def State.processOut (s : State) : List Byte :=
  xorBytes (s.inMem.readBytes 0 s.len.toNat) s.keystreamOut

/-- `KEYSTREAM` (R173). -/
def execKeystream (s : State) : Outcome := .next (s.dataCommand .keystream s.keystreamOut)

/-- `ENCRYPT` (R174). -/
def execEncrypt (s : State) : Outcome := .next (s.dataCommand .encrypt s.processOut)

/-- `DECRYPT`, the same operation under its own opcode (R175). -/
def execDecrypt (s : State) : Outcome := .next (s.dataCommand .decrypt s.processOut)

/-- The dispatch of a word written to `CMD` (R176): an illegal word raises `IllegalCommand` and
latches nothing (R224). -/
def startCommand (w : Word) (s : State) : Outcome :=
  match decodeCommand w with
  | none => .next (s.raise .illegalCommand)
  | some .new => execNew s
  | some .block => execBlock s
  | some .keystream => execKeystream s
  | some .encrypt => execEncrypt s
  | some .decrypt => execDecrypt s

end Sys2Proof.Machine
end

