-- ==== Sys2Proof/Machine/HostPort.lean ====
section
/-! DEFINITION. The four host port transactions `RD`, `WR`, `WIN`, `ROUT` (spec rules R178 to R181). -/

namespace Sys2Proof.Machine

/-- `RD rn` (R178): no state changes but the response. -/
def execRd (r : Reg) (s : State) : Outcome := .next (s.answerRead (s.readReg r))

/-- `WR rn, v` (R179): a write of `CMD` starts a command (R176), any other write changes exactly the
named register. -/
def execWr (r : Reg) (v : Word) (s : State) : Outcome :=
  if r = .cmd then startCommand v s.answerWrite else .next (s.answerWrite.writeReg r v)

/-- `WIN a, b` (R180). -/
def execWin (a : Word) (b : Byte) (s : State) : Outcome :=
  if addrInRange s.params.lenW a then
    .next { s.answerWrite with inMem := s.inMem.write a.toNat b }
  else .refused .addressOutOfRange

/-- `ROUT a` (R181): the byte, zero extended. -/
def execRout (a : Word) (s : State) : Outcome :=
  if addrInRange s.params.lenW a then
    .next (s.answerRead ((s.outMem.read a.toNat).zeroExtend 32))
  else .refused .addressOutOfRange

end Sys2Proof.Machine
end

