-- ==== Sys2Proof/Machine/Sequencer.lean ====
section
/-! DEFINITION. The block and emit micro-operations `U_INIT`, `U_FINAL`, `U_EMIT` (spec rules R149,
R150, R182) with their moves in the position table (R184). -/

namespace Sys2Proof.Machine

/-- The counter of the block in progress, `counter_init + BI`, an exact sum (R90, R149). -/
def State.blockCounter (s : State) : Nat := s.ctr + s.pos.bi

/-- `U_INIT`'s writes of `S` and `X` (R149). -/
def State.buildBlock (s : State) : State :=
  { s with
    saved := initState s.k s.n s.blockCounter
    x := initState s.k s.n s.blockCounter
    pos := s.pos.afterInit }

/-- `U_INIT` (R149).  The pre-check guarantees a counter of at most 2^64 - 1; beyond it the
document defines nothing (R223, U1), and the machine stops. -/
def execUInit (s : State) : Outcome :=
  if s.blockCounter ≤ 2 ^ 64 - 1 then .next s.buildBlock else .fault .counterOverflow

/-- `U_FINAL`'s feed-forward (R150). -/
def State.addSaved (s : State) : State :=
  { s with x := feedForward s.x s.saved, pos := s.pos.afterFinal }

/-- `U_FINAL` (R150). -/
def execUFinal (s : State) : Outcome := .next s.addSaved

/-- `m = min(64, LEN - 64 * BI)`, the bytes of this block that are kept (R182). -/
def State.keptBytes (s : State) : Nat := min 64 (s.len.toNat - 64 * s.pos.bi)

/-- What `U_EMIT` stores for a data command: the block's bytes, cut to length, for `ENCRYPT` and
`DECRYPT` with `IN` at the same addresses (R182). -/
def State.emitBytes (s : State) : List Byte :=
  if s.opc = Command.keystream.opcode then (serialize s.x).take s.keptBytes
  else xorBytes (s.inMem.readBytes (64 * s.pos.bi) s.keptBytes) ((serialize s.x).take s.keptBytes)

/-- `U_EMIT`'s store (R182): `BLK` for `BLOCK`, else `OUT` from address `64 * BI` on. -/
def State.storeBlock (s : State) : State :=
  if s.opc = Command.block.opcode then { s with blk := s.x }
  else s.storeOut (64 * s.pos.bi) s.emitBytes

/-- The end-of-command test of `U_EMIT` (R184): `OPC = 2`, or no block follows. -/
def State.lastBlock (s : State) : Bool :=
  s.opc = Command.block.opcode || s.nblk ≤ s.pos.bi + 1

/-- What the command in progress writes to `OLEN` when it ends (R29, R183). -/
def State.finalOlen (s : State) : Word := if s.opc = Command.block.opcode then 0 else s.len

/-- `U_EMIT` (R182), and the end of the command after its last block (R183, R184). -/
def execUEmit (s : State) : Outcome :=
  .next (if s.lastBlock then s.storeBlock.completeBlocks s.finalOlen
    else { s.storeBlock with pos := s.pos.nextBlock })

end Sys2Proof.Machine
end

