-- ==== Sys2Proof/Machine/Dispatch.lean ====
section
/-! DEFINITION. The meaning of every instruction: one arm per row of the opcode table. -/

namespace Sys2Proof.Machine

/-- One instruction's effect on a state. -/
def exec (i : Instr) (s : State) : Host.Outcome State Fault Refusal :=
  match i with
  | .rd r => Sys2Proof.Machine.execRd r s
  | .wr r v => Sys2Proof.Machine.execWr r v s
  | .win a b => Sys2Proof.Machine.execWin a b s
  | .rout a => Sys2Proof.Machine.execRout a s
  | .new => Sys2Proof.Machine.execNew s
  | .block => Sys2Proof.Machine.execBlock s
  | .keystream => Sys2Proof.Machine.execKeystream s
  | .encrypt => Sys2Proof.Machine.execEncrypt s
  | .decrypt => Sys2Proof.Machine.execDecrypt s
  | .uQr0 => Sys2Proof.Machine.execUQr0 s
  | .uQr1 => Sys2Proof.Machine.execUQr1 s
  | .uQr2 => Sys2Proof.Machine.execUQr2 s
  | .uQr3 => Sys2Proof.Machine.execUQr3 s
  | .uQr4 => Sys2Proof.Machine.execUQr4 s
  | .uQr5 => Sys2Proof.Machine.execUQr5 s
  | .uQr6 => Sys2Proof.Machine.execUQr6 s
  | .uQr7 => Sys2Proof.Machine.execUQr7 s
  | .uInit => Sys2Proof.Machine.execUInit s
  | .uFinal => Sys2Proof.Machine.execUFinal s
  | .uEmit => Sys2Proof.Machine.execUEmit s

end Sys2Proof.Machine
end

