-- ==== Sys2Proof/Machine/Fetch.lean ====
section
/-! DEFINITION. Where the next instruction comes from (spec rules R64, R95, R98, R184): between
commands the host port, during a command the sequencer position. -/

namespace Sys2Proof.Machine

/-- The listing numbers of the phases (R95). -/
def Phase.number : Phase → Nat
  | .idle => 0
  | .init => 1
  | .round => 2
  | .final => 3
  | .emit => 4

/-- The word to run next and where it comes from: at `IDLE` the host's first transaction, if any;
at `ROUND` the schedule word of `QI`; at the other phases the phase itself (R184). -/
def State.fetch (s : State) : Option (Format × Nat) :=
  match s.pos.ph with
  | .idle => s.port.head?.map fun w => (.host, w.toNat)
  | .round => some (.sched16, sched[s.pos.qi].word)
  | .init | .final | .emit => some (.seq, s.pos.ph.number)

/-- Taking the fetched word: the host port accepts a transaction only between commands (R10). -/
def State.accept (s : State) : State :=
  match s.pos.ph with
  | .idle => { s with port := s.port.tail }
  | .init | .round | .final | .emit => s

/-- The refusal of a word that is no instruction (R236). -/
def DecodeError.refusal : DecodeError → Refusal
  | .reservedRegister => .reservedRegister
  | .reservedTransaction | .illegalCommand | .notScheduled | .noMicroOperation | .tooWide =>
    .reservedTransaction

/-- The schedule entry a word stands in, if any (R94). -/
def schedIndex (w : Nat) : Option (Fin 8) :=
  (List.finRange 8).find? fun q => sched[q].word == w

/-- The state with a table word placed so that it is what `fetch` answers: a transaction at the head
of the port, a command word as the data of a write of `CMD`, a schedule word or a phase as the
sequencer position that selects it.  A word no position selects leaves the position as it is. -/
def State.place (s : State) (f : Format) (w : Nat) : State :=
  match f with
  | .host => { s with resetIn := none, pos := Pos.idle, port := BitVec.ofNat 67 w :: s.port }
  | .cmd =>
    { s with
      resetIn := none
      pos := Pos.idle
      port := hostWord 0 true 0 (BitVec.ofNat 32 w) :: s.port }
  | .sched16 =>
    match schedIndex w with
    | some q => { s with resetIn := none, pos := { s.pos with ph := .round, qi := q } }
    | none => s
  | .seq =>
    match w with
    | 1 => { s with resetIn := none, pos := { s.pos with ph := .init } }
    | 3 => { s with resetIn := none, pos := { s.pos with ph := .final } }
    | 4 => { s with resetIn := none, pos := { s.pos with ph := .emit } }
    | _ => s

end Sys2Proof.Machine
end

