-- ==== Sys2Proof/Machine/Step.lean ====
section
/-! DEFINITION. One step of the machine: a reset if one is pending (spec rule R250), else the next
instruction, else the core waits for the host (R184). -/

namespace Sys2Proof.Machine

/-- One step. -/
def step (s : State) : Host.Outcome State Fault Refusal :=
  match s.resetIn with
  | some d => .next (s.applyReset d)
  | none =>
    match s.fetch with
    | none => .next s
    | some (f, w) =>
      match decode f w with
      | .ok i => exec i s.accept
      | .error e => .refused (DecodeError.refusal e)

/-- The state in which the next step runs the instruction of a table word. -/
def State.withFetchWord (s : State) (nbits w : Nat) : State := s.place (Format.ofBits nbits) w

end Sys2Proof.Machine
end

