-- ==== Sys2Proof/Machine/Invariants.lean ====
section
/-! DEFINITION. What every step keeps: legal parameters, registers within their width, canonical
byte spaces, a legal sequencer position (spec rules R28, R29, R32, R50, R177), and a working state
that is exactly as far through the block function as the position says (R145, R146, R189). -/

namespace Sys2Proof.Machine

/-- 1 <= `LEN_W` <= 32 (R8). -/
def State.paramsLegal (s : State) : Prop := 1 ≤ s.params.lenW ∧ s.params.lenW ≤ 32

/-- `LEN` and `OLEN` have `LEN_W` bits (R28, R29). -/
def State.lengthsFit (s : State) : Prop :=
  s.len.toNat < 2 ^ s.params.lenW ∧ s.olen.toNat < 2 ^ s.params.lenW

/-- `IN` and `OUT` are in canonical form and have 2^`LEN_W` bytes (R50). -/
def State.spacesFit (s : State) : Prop :=
  s.inMem.wf = true ∧ s.inMem.within (2 ^ s.params.lenW) = true ∧
  s.outMem.wf = true ∧ s.outMem.within (2 ^ s.params.lenW) = true

/-- A command that computes blocks is in progress, its pre-checks passed, and `BI` counts one of its
blocks (R32, R177, R183). -/
def State.inCommand (s : State) : Prop :=
  s.valid = true ∧
    (s.opc = Command.block.opcode ∧ s.pos.bi = 0 ∨
      (s.opc = Command.keystream.opcode ∨ s.opc = Command.encrypt.opcode ∨
          s.opc = Command.decrypt.opcode) ∧
        s.pos.bi < s.nblk ∧ counterOverflows s.len.toNat s.ctr = false)

/-- The sequencer position is one of those of rule R184. -/
def State.positionLegal (s : State) : Prop :=
  match s.pos.ph with
  | .idle => s.pos = Pos.idle
  | .round => s.inCommand
  | .init | .final | .emit => s.inCommand ∧ s.pos.dr = 0 ∧ s.pos.qi = 0

/-- The invariant of the state. -/
def State.Inv (s : State) : Prop :=
  s.paramsLegal ∧ s.lengthsFit ∧ s.spacesFit ∧ s.positionLegal

/-- The first `q` quarter rounds of a double round (R118). -/
def quarterRounds (q : Nat) (x : Vector Word 16) : Vector Word 16 :=
  (sched.toList.take q).foldl qrs x

/-- The working state is as far through `block(K, N, counter_init + BI)` as the position says: `DR`
double rounds and `QI` quarter rounds at `ROUND`, all rounds at `FINAL`, the block at `EMIT`
(R189). -/
def State.workMatches (s : State) : Prop :=
  let s0 := initState s.k s.n s.blockCounter
  match s.pos.ph with
  | .idle | .init => True
  | .round => s.saved = s0 ∧ s.x = quarterRounds s.pos.qi (doubleRounds s.pos.dr s0)
  | .final => s.saved = s0 ∧ s.x = rounds s0
  | .emit => s.x = block s.k s.n s.blockCounter

end Sys2Proof.Machine
end

