-- ==== Sys2Proof/Safety.lean ====
section
/-! DEFINITION. What counts as a safe run: its states meet the invariant, no request has run the
counter past 2^64 - 1 (spec 93_implementation_defined.md U1), and no step stops.  Also what of a state
the host can see (rules R20, R39). -/

namespace Sys2Proof.Machine

/-- A state of a safe run. -/
def State.Safe (s : State) : Prop := s.Inv ∧ s.workMatches ∧ s.overflowMark = false

/-- `k` steps go through safe states only and do not stop. -/
def SafeRun : Nat → State → Prop
  | 0, s => s.Safe
  | k + 1, s => s.Safe ∧ ∃ t, step s = .next t ∧ SafeRun k t

/-- Between commands, with no reset pending: the core accepts a transaction. -/
def State.ready (s : State) : Prop := s.pos = Pos.idle ∧ s.resetIn = none

/-- The same state under the other description of rule R11. -/
def State.atLevel (s : State) (l : Level) : State := { s with params := { s.params with level := l } }

/-- What the host can read: the readable registers, `OUT` and `LEN_W` (R20, R39, R82). -/
def State.sameToHost (s t : State) : Prop :=
  s.params.lenW = t.params.lenW ∧ s.valid = t.valid ∧ s.err = t.err ∧ s.olen = t.olen ∧
  s.klen = t.klen ∧ s.len = t.len ∧ s.ctrLo = t.ctrLo ∧ s.ctrHi = t.ctrHi ∧
  s.nonceLo = t.nonceLo ∧ s.nonceHi = t.nonceHi ∧ s.blk = t.blk ∧ s.outMem = t.outMem

/-- The fields a write's response changes, taken from `t` (R80). -/
def State.answeredAs (s t : State) : State := { s with rdata := t.rdata, draws := t.draws }

/-- The hidden fields whose value is not defined once a command has ended, taken from `t` (U4). -/
def State.hiddenAs (s t : State) : State :=
  { s with opc := t.opc, x := t.x, saved := t.saved, draws := t.draws }

/-- The pre-check of a command (R177). -/
def State.precheck (s : State) : Command → Option ErrCode
  | .new => s.precheckNew
  | .block => s.precheckBlock
  | .keystream | .encrypt | .decrypt => s.precheckData

/-- How many micro-operations a command runs from this state (R183): none when its pre-check fails,
none for `NEW`, 83 for a block. -/
def State.microOps (s : State) (c : Command) : Nat :=
  match s.precheck c, c with
  | some _, _ => 0
  | none, .new => 0
  | none, .block => 83
  | none, .keystream | none, .encrypt | none, .decrypt => 83 * s.nblk

end Sys2Proof.Machine
end

