-- ==== Sys2Proof/Certificates/Slice0/Obligations.lean ====
section
/-! DEFINITION. The statements for the provers.  Frames are written as equations `t = { s with … }`
whose right side names every field that may differ. -/

open Sys2Proof Sys2Proof.Machine

/-! ### Encodings -/

/-- Decoding what the encoder writes gives the instruction back, with every operand, and the word
fits its format (R80 to R84, R94, R95). -/
def Obligations.DecodeOfEncodeIsTheInstruction : Prop :=
  ∀ i : Instr, decode i.format (encode i) = .ok i ∧ encode i < 2 ^ i.format.width

/-- A word that decodes matches the row of the opcode table of the instruction it decodes to. -/
def Obligations.DecodedWordsMatchTheirOpcodeRow : Prop :=
  ∀ (f : Format) (w : Nat) (i : Instr), decode f w = .ok i →
    i.format = f ∧ i.row.format = f ∧ i.row.accepts w = true

/-- No word matches two rows of one format. -/
def Obligations.OpcodeRowsDoNotOverlap : Prop :=
  ∀ (i j : Instr) (w : Nat), i.row.format = j.row.format →
    i.row.accepts w = true → j.row.accepts w = true → i.row = j.row

/-- The four transactions of the `HOST` format, and the refusal of every other combination (R81;
the address bound is stated of `WIN` and `ROUT`). -/
def Obligations.HostWordsDecodeByTheirFields : Prop :=
  ∀ (sel : BitVec 2) (we : Bool) (addr wdata : Word),
    decode .host (hostWord sel we addr wdata).toNat =
      if sel = 0 then
        if 64 ≤ addr.toNat then .error .reservedRegister
        else
          match regOfNumber addr.toNat with
          | some r => .ok (if we then .wr r wdata else .rd r)
          | none => .error .reservedRegister
      else if sel = 1 ∧ we = true then .ok (.win addr (wdata.extractLsb' 0 8))
      else if sel = 2 ∧ we = false then .ok (.rout addr)
      else .error .reservedTransaction

/-- The register numbers: each register has the number the map gives it, each number names at most
one register, and the numbers without one below 64 are exactly 10 to 15, 24 to 31 and 48 to 63 (R82,
R86). -/
def Obligations.RegisterNumbersFollowTheMap : Prop :=
  (Reg.cmd.number = 0 ∧ Reg.status.number = 1 ∧ Reg.err.number = 2 ∧ Reg.olen.number = 3 ∧
    Reg.klen.number = 4 ∧ Reg.len.number = 5 ∧ Reg.ctrLo.number = 6 ∧ Reg.ctrHi.number = 7 ∧
    Reg.nonceLo.number = 8 ∧ Reg.nonceHi.number = 9 ∧
    (∀ j : Fin 8, (Reg.keyin j).number = 16 + j.val) ∧
    ∀ j : Fin 16, (Reg.blk j).number = 32 + j.val) ∧
  (∀ n r, regOfNumber n = some r ↔ r.number = n) ∧
  ∀ n, n < 64 → (regOfNumber n = none ↔
    (10 ≤ n ∧ n ≤ 15) ∨ (24 ≤ n ∧ n ≤ 31) ∨ (48 ≤ n ∧ n ≤ 63))

/-- The command words are 1 to 5 and nothing else (R83 to R85). -/
def Obligations.CommandWordsAreOneToFive : Prop :=
  ∀ w : Word, decodeCommand w =
    if w = 0x00000001 then some .new
    else if w = 0x00000002 then some .block
    else if w = 0x00000003 then some .keystream
    else if w = 0x00000004 then some .encrypt
    else if w = 0x00000005 then some .decrypt
    else none

/-- The schedule's index groups and the words they pack into (R93, R94). -/
def Obligations.ScheduleWordsPackTheGroups : Prop :=
  sched.toList = [⟨0, 4, 8, 12⟩, ⟨1, 5, 9, 13⟩, ⟨2, 6, 10, 14⟩, ⟨3, 7, 11, 15⟩,
    ⟨0, 5, 10, 15⟩, ⟨1, 6, 11, 12⟩, ⟨2, 7, 8, 13⟩, ⟨3, 4, 9, 14⟩] ∧
  sched.toList.map Group.word =
    [0x048C, 0x159D, 0x26AE, 0x37BF, 0x05AF, 0x16BC, 0x278D, 0x349E]

/-- Some words written out from the spec's encodings, one or more of each format. -/
def Obligations.WordsWrittenOutDecode : Prop :=
  decode .host 0x00000002000000000 = .ok (.rd (.blk 0)) ∧
  decode .host 0x1000000120b0a0908 = .ok (.wr (.keyin 2) 0x0b0a0908) ∧
  decode .host 0x3000000020000014d = .ok (.win 2 0x4d) ∧
  decode .host 0x4ffffffff00000000 = .ok (.rout 0xffffffff) ∧
  decode .cmd 0x00000004 = .ok .encrypt ∧
  decode .sched16 0x16BC = .ok .uQr5 ∧
  decode .seq 3 = .ok .uFinal

/-! ### The step -/

/-- Between commands, a step takes the host's first transaction and runs it; a reserved one is
refused by name (R64, R81, R236). -/
def Obligations.StepRunsTheHostTransaction : Prop :=
  ∀ (s : State) (w : HostWord) (rest : List HostWord),
    s.ready → s.port = w :: rest →
      match decode .host w.toNat with
      | .ok i => step s = exec i { s with port := rest }
      | .error .reservedRegister => step s = .refused .reservedRegister
      | .error _ => step s = .refused .reservedTransaction

/-- During a command, a step runs the micro-operation of the sequencer position (R184), and the host
port is not read (R10). -/
def Obligations.StepRunsTheMicroOperationOfThePosition : Prop :=
  ∀ s : State, s.resetIn = none →
    (s.pos.ph = .init → step s = exec .uInit s) ∧
    (s.pos.ph = .round → s.pos.qi = 0 → step s = exec .uQr0 s) ∧
    (s.pos.ph = .round → s.pos.qi = 1 → step s = exec .uQr1 s) ∧
    (s.pos.ph = .round → s.pos.qi = 2 → step s = exec .uQr2 s) ∧
    (s.pos.ph = .round → s.pos.qi = 3 → step s = exec .uQr3 s) ∧
    (s.pos.ph = .round → s.pos.qi = 4 → step s = exec .uQr4 s) ∧
    (s.pos.ph = .round → s.pos.qi = 5 → step s = exec .uQr5 s) ∧
    (s.pos.ph = .round → s.pos.qi = 6 → step s = exec .uQr6 s) ∧
    (s.pos.ph = .round → s.pos.qi = 7 → step s = exec .uQr7 s) ∧
    (s.pos.ph = .final → step s = exec .uFinal s) ∧
    (s.pos.ph = .emit → step s = exec .uEmit s)

/-- With no command in progress and nothing from the host, a step changes nothing (R184, R250). -/
def Obligations.StepWaitsForTheHost : Prop :=
  ∀ s : State, s.ready → s.port = [] → step s = .next s

/-- No transaction is taken while a command is in progress (R10, R64). -/
def Obligations.PortIsClosedDuringACommand : Prop :=
  ∀ s t : State, s.resetIn = none → s.pos.ph ≠ .idle → step s = .next t → t.port = s.port

/-! ### Reset -/

/-- A pending reset is taken at once, also in the middle of a command: the values rule R38 gives,
for every draw of the values it leaves unspecified (R38, R250).  That `LEN_W`, the host's remaining
transactions and the model's own marks stay is the model's (notes/assumptions/5.md). -/
def Obligations.ResetLeavesTheSpecifiedValues : Prop :=
  ∀ (s : State) (d : ResetDraw), s.resetIn = some d → ∃ t, step s = .next t ∧
    t.valid = false ∧ t.err = .ok ∧ t.olen = 0 ∧ t.klen = 0 ∧ t.ctrLo = 0 ∧ t.ctrHi = 0 ∧
    t.len = 0 ∧ t.statusWord = 0 ∧ t.pos = { ph := .idle, bi := 0, dr := 0, qi := 0 } ∧
    t.nonceLo = d.nonceLo ∧ t.nonceHi = d.nonceHi ∧ t.keyin = d.keyin ∧ t.k = d.k ∧ t.n = d.n ∧
    t.blk = d.blk ∧ t.x = d.x ∧ t.saved = d.saved ∧ t.opc = d.opc ∧
    t.inMem = Memory.ofCells s.params.lenW d.inCells ∧
    t.outMem = Memory.ofCells s.params.lenW d.outCells ∧ t.resetIn = none ∧
    t.params = s.params ∧ t.port = s.port

/-- A reset can draw any contents of a byte space: every canonical space of 2^`LEN_W` bytes is one of
the draws (R38, U2). -/
def Obligations.ResetCanDrawAnyContents : Prop :=
  ∀ (lenW : Nat) (m : Memory), m.wf = true → m.within (2 ^ lenW) = true →
    Memory.ofCells lenW m = m

/-- Straight after a reset, whatever it draws: `NEW` fails with `InvalidKeyLength`, every other
command with `NotConfigured` (R251, first two consequences). -/
def Obligations.AfterResetCommandsFail : Prop :=
  ∀ (p : Params) (d : ResetDraw) (c : Command),
    ∃ t, exec c.instr (State.resetTo p d) = .next t ∧
      t.err = (if c = .new then .invalidKeyLength else .notConfigured) ∧
      t.valid = false ∧ t.olen = 0

/-! ### Host transactions -/

/-- `RD` answers the register and changes nothing else (R178, R87, R88). -/
def Obligations.RdAnswersTheRegister : Prop :=
  ∀ (s : State) (r : Reg), ∃ t, exec (.rd r) s = .next t ∧
    t = { s with rdata := t.rdata } ∧
    match r with
    | .cmd => t.rdata = 0
    | .status => t.rdata.getLsbD 0 = s.valid ∧ (t.rdata.getLsbD 1 = true ↔ s.err ≠ .ok) ∧
        ∀ i, 2 ≤ i → t.rdata.getLsbD i = false
    | .err => t.rdata.toNat =
        match s.err with
        | .ok => 0
        | .invalidKeyLength => 1
        | .notConfigured => 2
        | .counterOverflow => 3
        | .illegalCommand => 4
    | .olen => t.rdata = s.olen
    | .klen => t.rdata = s.klen
    | .len => t.rdata = s.len
    | .ctrLo => t.rdata = s.ctrLo
    | .ctrHi => t.rdata = s.ctrHi
    | .nonceLo => t.rdata = s.nonceLo
    | .nonceHi => t.rdata = s.nonceHi
    | .keyin _ => t.rdata = 0
    | .blk j => t.rdata = s.blk[j]

/-- `WR` of a register other than `CMD` changes exactly the named register, and nothing when it is
read-only (R179).  The response of a write is not defined (R80). -/
def Obligations.WrWritesExactlyTheNamedRegister : Prop :=
  ∀ (s : State) (r : Reg) (v : Word), r ≠ .cmd → ∃ t, exec (.wr r v) s = .next t ∧
    match r with
    | .cmd | .status | .err | .olen | .blk _ => t = s.answeredAs t
    | .klen => t = { s with klen := v }.answeredAs t
    | .len => t = { s with len := t.len }.answeredAs t ∧ t.len.toNat = v.toNat % 2 ^ s.params.lenW
    | .ctrLo => t = { s with ctrLo := v }.answeredAs t
    | .ctrHi => t = { s with ctrHi := v }.answeredAs t
    | .nonceLo => t = { s with nonceLo := v }.answeredAs t
    | .nonceHi => t = { s with nonceHi := v }.answeredAs t
    | .keyin j => t = { s with keyin := t.keyin }.answeredAs t ∧ t.keyin[j] = v ∧
        ∀ i : Fin 8, i ≠ j → t.keyin[i] = s.keyin[i]

/-- `WR` of `CMD` starts the command its word names, on the state with the write answered (R176). -/
def Obligations.WrCmdStartsTheCommand : Prop :=
  ∀ s : State, ∃ s', s' = s.answeredAs s' ∧
    exec (.wr .cmd 0x00000001) s = exec .new s' ∧
    exec (.wr .cmd 0x00000002) s = exec .block s' ∧
    exec (.wr .cmd 0x00000003) s = exec .keystream s' ∧
    exec (.wr .cmd 0x00000004) s = exec .encrypt s' ∧
    exec (.wr .cmd 0x00000005) s = exec .decrypt s' ∧
    ∀ w, ∃ t, exec (.wr .cmd w) s = .next t

/-- A word that is not one of the five command words raises `IllegalCommand`, code 4; `OPC` is not
latched and nothing else changes (R224). -/
def Obligations.IllegalWordsRaiseIllegalCommand : Prop :=
  ∀ (s : State) (w : Word), s.pos = Pos.idle →
    (w.extractLsb' 4 28 ≠ 0 ∨ w.extractLsb' 0 4 = 0 ∨ 5 < (w.extractLsb' 0 4).toNat) →
    ∃ t, exec (.wr .cmd w) s = .next t ∧
      t = { s with err := .illegalCommand, olen := 0 }.answeredAs t ∧
      t.err.code = 4

/-- `WIN` writes one byte of `IN` and nothing else (R180). -/
def Obligations.WinWritesOneInputByte : Prop :=
  ∀ (s : State) (a : Word) (b : Byte), a.toNat < 2 ^ s.params.lenW → s.inMem.wf = true →
    ∃ t, exec (.win a b) s = .next t ∧
      t = { s with inMem := t.inMem }.answeredAs t ∧
      ∀ x, t.inMem.read x = if x = a.toNat then b else s.inMem.read x

/-- `ROUT` answers one byte of `OUT`, zero extended, and changes nothing else (R181). -/
def Obligations.RoutReadsOneOutputByte : Prop :=
  ∀ (s : State) (a : Word), a.toNat < 2 ^ s.params.lenW →
    ∃ t, exec (.rout a) s = .next t ∧ t = { s with rdata := t.rdata } ∧
      t.rdata.toNat = (s.outMem.read a.toNat).toNat

/-- `WIN` and `ROUT` at or above 2^`LEN_W` are refused by name (R62, R236). -/
def Obligations.AddressesOutOfRangeAreRefused : Prop :=
  ∀ (s : State) (a : Word) (b : Byte), 2 ^ s.params.lenW ≤ a.toNat →
    exec (.win a b) s = .refused .addressOutOfRange ∧
    exec (.rout a) s = .refused .addressOutOfRange

/-! ### Commands -/

/-- A `NEW` with `KLEN` = 32 constructs the instance from the staging registers and leaves them
(R172).  `OPC` is not defined afterwards (U4). -/
def Obligations.NewConstructsTheInstance : Prop :=
  ∀ s : State, s.klen = 32 → s.pos = Pos.idle →
    ∃ t, exec .new s = .next t ∧
      t = { s with k := t.k, n := t.n, valid := true, err := .ok, olen := 0, opc := t.opc,
                   draws := t.draws } ∧
      (∀ j : Fin 8, t.k[j] = s.keyin[j]) ∧ t.n[0] = s.nonceLo ∧ t.n[1] = s.nonceHi

/-- A `NEW` with any other key length raises `InvalidKeyLength`, code 1, and destroys the instance;
`K`, `N` and everything else unchanged (R221).  `OPC` is not defined afterwards (U4). -/
def Obligations.NewWithAnotherKeyLengthFails : Prop :=
  ∀ s : State, s.klen.toNat ≠ 32 → s.pos = Pos.idle →
    ∃ t, exec .new s = .next t ∧
      t = { s with err := .invalidKeyLength, olen := 0, valid := false, opc := t.opc,
                   draws := t.draws } ∧
      t.err.code = 1

/-- `BLOCK`, `KEYSTREAM`, `ENCRYPT`, `DECRYPT` without an instance raise `NotConfigured`, code 2, and
nothing else changes (R222).  `OPC` is not defined afterwards (U4). -/
def Obligations.CommandsWithoutAnInstanceFail : Prop :=
  ∀ (s : State) (c : Command), c ≠ .new → s.valid = false → s.pos = Pos.idle →
    ∃ t, exec c.instr s = .next t ∧
      t = { s with err := .notConfigured, olen := 0, opc := t.opc, draws := t.draws } ∧
      t.err.code = 2

/-- A data command whose last counter would pass 2^64 - 1 raises `CounterOverflow`, code 3, and
computes nothing; one that ends exactly there does not (R223).  `overflowMark` is the model's mark of
such a run (U1). -/
def Obligations.CounterOverflowIsReported : Prop :=
  ∀ (s : State) (c : Command), c = .keystream ∨ c = .encrypt ∨ c = .decrypt →
    s.valid = true → s.pos = Pos.idle →
    ∃ t, exec c.instr s = .next t ∧
      if 1 ≤ (s.len.toNat + 63) / 64 ∧
          2 ^ 64 - 1 < s.ctrLo.toNat + 2 ^ 32 * s.ctrHi.toNat + ((s.len.toNat + 63) / 64 - 1)
      then
        t = { s with err := .counterOverflow, olen := 0, opc := t.opc, draws := t.draws,
                     overflowMark := true } ∧
        t.err.code = 3
      else t.overflowMark = s.overflowMark ∧ (t.err = .ok ∨ t.err = s.err)

/-- The error reported is the first that holds: `IllegalCommand`, then `InvalidKeyLength` for `NEW`
or `NotConfigured` for the others, then `CounterOverflow` (R227). -/
def Obligations.FirstErrorThatHoldsIsReported : Prop :=
  ∀ (s : State) (w : Word), ∃ t, exec (.wr .cmd w) s = .next t ∧
    (w = 0 ∨ 5 < w.toNat → t.err = .illegalCommand ∧ t.err.code = 4) ∧
    (w = 1 → s.klen ≠ 32 → t.err = .invalidKeyLength ∧ t.err.code = 1) ∧
    (2 ≤ w.toNat → w.toNat ≤ 5 → s.valid = false → t.err = .notConfigured ∧ t.err.code = 2) ∧
    (3 ≤ w.toNat → w.toNat ≤ 5 → s.valid = true →
      counterOverflows s.len.toNat (u64 s.ctrLo s.ctrHi) = true →
      t.err = .counterOverflow ∧ t.err.code = 3)

/-- `BLOCK` at the functional level writes the sixteen words of `block(K, N, counter_init)` to `BLK`
and sets `OLEN` = 0; `OUT` and the operands are unchanged (R151). -/
def Obligations.BlockWritesTheBlockWords : Prop :=
  ∀ s : State, s.params.level = .functional → s.valid = true → s.pos = Pos.idle →
    ∃ t, exec .block s = .next t ∧
      t = { s with blk := t.blk, err := .ok, olen := 0 }.hiddenAs t ∧
      ∀ j : Fin 16, t.blk[j] = (rounds (initState s.k s.n (u64 s.ctrLo s.ctrHi)))[j] +
        (initState s.k s.n (u64 s.ctrLo s.ctrHi))[j]

/-- `KEYSTREAM` at the functional level writes byte `a mod 64` of the block at counter
`counter_init + a div 64` to `OUT[a]` for every `a < LEN`, and no other byte; `OLEN` = `LEN` (R173,
R170, R53). -/
def Obligations.KeystreamWritesTheKeystream : Prop :=
  ∀ s : State, s.params.level = .functional → s.valid = true → s.pos = Pos.idle →
    s.outMem.wf = true → counterOverflows s.len.toNat (u64 s.ctrLo s.ctrHi) = false →
    ∃ t, exec .keystream s = .next t ∧
      t = { s with outMem := t.outMem, err := .ok, olen := s.len }.hiddenAs t ∧
      (∀ a, a < s.len.toNat →
        (blockBytes s.k s.n (u64 s.ctrLo s.ctrHi + a / 64))[a % 64]? = some (t.outMem.read a)) ∧
      ∀ a, s.len.toNat ≤ a → t.outMem.read a = s.outMem.read a

/-- `ENCRYPT` and `DECRYPT` at the functional level write
`IN[a] ^ block_bytes(K, N, counter_init + a div 64)[a mod 64]` to `OUT[a]` for every `a < LEN`, and
no other byte; `OLEN` = `LEN` (R174, R175, R53). -/
def Obligations.EncryptAndDecryptXorTheInput : Prop :=
  ∀ (s : State) (c : Command), c = .encrypt ∨ c = .decrypt →
    s.params.level = .functional → s.valid = true → s.pos = Pos.idle →
    s.outMem.wf = true → counterOverflows s.len.toNat (u64 s.ctrLo s.ctrHi) = false →
    ∃ t, exec c.instr s = .next t ∧
      t = { s with outMem := t.outMem, err := .ok, olen := s.len }.hiddenAs t ∧
      (∀ a, a < s.len.toNat →
        (blockBytes s.k s.n (u64 s.ctrLo s.ctrHi + a / 64))[a % 64]? =
          some (t.outMem.read a ^^^ s.inMem.read a)) ∧
      ∀ a, s.len.toNat ≤ a → t.outMem.read a = s.outMem.read a

/-- At the sequenced level, dispatch with the pre-checks passed latches `OPC` and goes to
`(INIT, 0, 0, 0)`; a data command with `LEN` = 0 ends at once with `ERR` = 0 and `OLEN` = 0 (R176,
R184). -/
def Obligations.DispatchStartsTheSequencer : Prop :=
  ∀ s : State, s.params.level = .sequenced → s.valid = true → s.pos = Pos.idle →
    exec .block s = .next { s with opc := 2, pos := { ph := .init, bi := 0, dr := 0, qi := 0 } } ∧
    (counterOverflows s.len.toNat (u64 s.ctrLo s.ctrHi) = false → s.len ≠ 0 →
      exec .keystream s =
        .next { s with opc := 3, pos := { ph := .init, bi := 0, dr := 0, qi := 0 } } ∧
      exec .encrypt s =
        .next { s with opc := 4, pos := { ph := .init, bi := 0, dr := 0, qi := 0 } } ∧
      exec .decrypt s =
        .next { s with opc := 5, pos := { ph := .init, bi := 0, dr := 0, qi := 0 } }) ∧
    (s.len = 0 → ∀ c : Command, c = .keystream ∨ c = .encrypt ∨ c = .decrypt →
      ∃ t, exec c.instr s = .next t ∧
        t = { s with err := .ok, olen := 0, opc := t.opc, draws := t.draws })

/-! ### Micro-operations -/

/-- What a quarter-round micro-operation on the group (a, b, c, d) does at schedule index `q`: the
quarter round of the four words, the other twelve unchanged, the position of rule R184, nothing
else. -/
def Sys2Proof.Machine.QuarterRoundEffect (i : Instr) (q : Nat) (a b c d : Fin 16) : Prop :=
  ∀ s : State, ∃ t, exec i s = .next t ∧ t = { s with x := t.x, pos := t.pos } ∧
    (t.x[a], t.x[b], t.x[c], t.x[d]) = qr s.x[a] s.x[b] s.x[c] s.x[d] ∧
    (∀ j : Fin 16, j ≠ a → j ≠ b → j ≠ c → j ≠ d → t.x[j] = s.x[j]) ∧
    t.pos.bi = s.pos.bi ∧
    (q < 7 → t.pos.ph = .round ∧ t.pos.dr = s.pos.dr ∧ t.pos.qi.val = q + 1) ∧
    (q = 7 → s.pos.dr.val < 9 →
      t.pos.ph = .round ∧ t.pos.dr.val = s.pos.dr.val + 1 ∧ t.pos.qi = 0) ∧
    (q = 7 → s.pos.dr.val = 9 → t.pos.ph = .final ∧ t.pos.dr = 0 ∧ t.pos.qi = 0)

/-- `U_QR0` to `U_QR7` (R120 to R127). -/
def Obligations.QuarterRoundMicroOperations : Prop :=
  QuarterRoundEffect .uQr0 0 0 4 8 12 ∧ QuarterRoundEffect .uQr1 1 1 5 9 13 ∧
  QuarterRoundEffect .uQr2 2 2 6 10 14 ∧ QuarterRoundEffect .uQr3 3 3 7 11 15 ∧
  QuarterRoundEffect .uQr4 4 0 5 10 15 ∧ QuarterRoundEffect .uQr5 5 1 6 11 12 ∧
  QuarterRoundEffect .uQr6 6 2 7 8 13 ∧ QuarterRoundEffect .uQr7 7 3 4 9 14

/-- `U_INIT` builds the state array of the block's counter in `S` and `X`: constants, key, counter
(low word at 12, high word at 13), nonce (R149, R140 to R144).  The second clause is the model's choice
(DEDUCED, notes/assumptions/9.md): R149 lists no exception, its pre-check excludes a counter beyond
2^64 - 1, and there the model's `U_INIT` stops. -/
def Obligations.InitBuildsTheStateArray : Prop :=
  ∀ s : State,
    (u64 s.ctrLo s.ctrHi + s.pos.bi ≤ 2 ^ 64 - 1 →
      ∃ t, exec .uInit s = .next t ∧ t = { s with x := t.x, saved := t.x, pos := t.pos } ∧
        t.pos = { ph := .round, bi := s.pos.bi, dr := 0, qi := 0 } ∧
        t.x[0] = 0x61707865 ∧ t.x[1] = 0x3320646e ∧ t.x[2] = 0x79622d32 ∧ t.x[3] = 0x6b206574 ∧
        (∀ (j : Nat) (h : j < 8), t.x[4 + j] = s.k[j]) ∧
        u64 t.x[12] t.x[13] = u64 s.ctrLo s.ctrHi + s.pos.bi ∧
        t.x[14] = s.n[0] ∧ t.x[15] = s.n[1]) ∧
    (2 ^ 64 - 1 < u64 s.ctrLo s.ctrHi + s.pos.bi → exec .uInit s = .fault .counterOverflow)

/-- `U_FINAL` adds `S` to `X` word by word, modulo 2^32 (R150, R184). -/
def Obligations.FinalAddsTheInitialState : Prop :=
  ∀ s : State, ∃ t, exec .uFinal s = .next t ∧ t = { s with x := t.x, pos := t.pos } ∧
    (∀ j : Fin 16, t.x[j].toNat = (s.x[j].toNat + s.saved[j].toNat) % 2 ^ 32) ∧
    t.pos = { ph := .emit, bi := s.pos.bi, dr := 0, qi := 0 }

/-- `U_EMIT` for `BLOCK` copies `X` to `BLK` and ends the command (R182, R184). -/
def Obligations.EmitOfABlockCommand : Prop :=
  ∀ s : State, s.opc = 2 → ∃ t, exec .uEmit s = .next t ∧
    t = { s with blk := s.x, err := .ok, olen := 0, pos := Pos.idle }.hiddenAs t

/-- `U_EMIT` for a data command stores the first `min(64, LEN - 64 BI)` bytes of the serialised `X`
at `64 BI`, XORed with `IN` unless the command is `KEYSTREAM`, and no other byte; then, if
`BI + 1 < nblk`, the next block is started, and if `BI + 1 = nblk` the command ends with `OLEN` = `LEN`
and `ERR` = 0 (R182, R184).  For `BI + 1 > nblk`, which no legal state has and for which R184 has no
row, that nothing is stored and the command ends is the model's choice (DESIGN CHOICE,
notes/assumptions/9.md). -/
def Obligations.EmitOfADataCommand : Prop :=
  ∀ s : State, s.opc = 3 ∨ s.opc = 4 ∨ s.opc = 5 → s.outMem.wf = true →
    ∃ t, exec .uEmit s = .next t ∧
      (∀ k, k < 64 → 64 * s.pos.bi + k < s.len.toNat →
        (serialize s.x)[k]? = some (if s.opc = 3 then t.outMem.read (64 * s.pos.bi + k)
          else t.outMem.read (64 * s.pos.bi + k) ^^^ s.inMem.read (64 * s.pos.bi + k))) ∧
      (∀ a, a < 64 * s.pos.bi ∨ 64 * s.pos.bi + 64 ≤ a ∨ s.len.toNat ≤ a →
        t.outMem.read a = s.outMem.read a) ∧
      if s.pos.bi + 1 < (s.len.toNat + 63) / 64 then
        t = { s with outMem := t.outMem,
                     pos := { ph := .init, bi := s.pos.bi + 1, dr := 0, qi := 0 } }
      else
        t = { s with outMem := t.outMem, err := .ok, olen := s.len, pos := Pos.idle }.hiddenAs t

/-! ### The functions of the cipher -/

/-- `rotl32(x, n)` moves bit `i` to bit `(i + n mod 32) mod 32`, so rotations by 0 and by 32 are the
identity (R112). -/
def Obligations.RotateMovesEveryBit : Prop :=
  (∀ (x : Word) (n i : Nat), i < 32 →
    (rotl32 x n).getLsbD ((i + n % 32) % 32) = x.getLsbD i) ∧
  ∀ x : Word, rotl32 x 0 = x ∧ rotl32 x 32 = x

/-- `QR` is the four lines of R113, written out with addition, exclusive OR and rotation on 32 bits;
`QRS` on four distinct indices writes the quarter round of the four words there and leaves the other
twelve (R114); every schedule entry has distinct indices (R115). -/
def Obligations.QrsChangesOnlyItsFourWords : Prop :=
  (∀ a b c d : Word,
    let a1 := a + b
    let d1 := (d ^^^ a1).rotateLeft 16
    let c1 := c + d1
    let b1 := (b ^^^ c1).rotateLeft 12
    let a2 := a1 + b1
    let d2 := (d1 ^^^ a2).rotateLeft 8
    let c2 := c1 + d2
    let b2 := (b1 ^^^ c2).rotateLeft 7
    qr a b c d = (a2, b2, c2, d2)) ∧
  (∀ (x : Vector Word 16) (a b c d : Fin 16), [a, b, c, d].Nodup →
    ((qrs x ⟨a, b, c, d⟩)[a], (qrs x ⟨a, b, c, d⟩)[b], (qrs x ⟨a, b, c, d⟩)[c],
      (qrs x ⟨a, b, c, d⟩)[d]) = qr x[a] x[b] x[c] x[d] ∧
    ∀ j : Fin 16, j ∉ [a, b, c, d] → (qrs x ⟨a, b, c, d⟩)[j] = x[j]) ∧
  ∀ q : Fin 8, [sched[q].a, sched[q].b, sched[q].c, sched[q].d].Nodup

/-- The double round is the eight quarter rounds of the schedule in order; with the passes swapped it
is another function (R118). -/
def Obligations.DoubleRoundIsTheScheduleInOrder : Prop :=
  (∀ x, doubleRound x = sched.toList.foldl qrs x) ∧ ∃ x, colRound (diagRound x) ≠ doubleRound x

/-- Within a pass the quarter rounds may be applied in any order (R119). -/
def Obligations.QuarterRoundsOfAPassCommute : Prop :=
  ∀ (x : Vector Word 16) (p q : Fin 8), p ≠ q → (p.val < 4 ↔ q.val < 4) →
    qrs (qrs x sched[p]) sched[q] = qrs (qrs x sched[q]) sched[p]

/-- Byte `4j + k` of the serialised words is bits `8k + 7 : 8k` of word `j`, 64 bytes in all
(R147). -/
def Obligations.SerializeIsLittleEndian : Prop :=
  ∀ w : Vector Word 16, (serialize w).length = 64 ∧
    ∀ (j k : Nat) (hj : j < 16), k < 4 →
      (serialize w)[4 * j + k]? = some (w[j].extractLsb' (8 * k) 8)

/-- `le32` and `bytes32` are inverse (R16), so a key word holds its four key bytes low byte first
(R92). -/
def Obligations.WordsAndBytesPackLittleEndian : Prop :=
  (∀ b0 b1 b2 b3 : Byte, bytes32 (le32 b0 b1 b2 b3) = [b0, b1, b2, b3] ∧
    (le32 b0 b1 b2 b3).toNat =
      b0.toNat + 2 ^ 8 * b1.toNat + 2 ^ 16 * b2.toNat + 2 ^ 24 * b3.toNat) ∧
  ∀ c : Nat, c < 2 ^ 64 → u64 (lo32 c) (hi32 c) = c

/-- `len(keystream(n, c)) = n`, the empty and the partial request included; after a successful data
command `OLEN` = `LEN`, every byte of `OUT` below `LEN` was written, and none at or above (R192). -/
def Obligations.LengthIsExact : Prop :=
  (∀ k n len c ks, keystream k n len c = some ks → ks.length = len) ∧
  ∀ (s t : State) (c : Command), c = .keystream ∨ c = .encrypt ∨ c = .decrypt →
    s.params.level = .functional → s.outMem.wf = true →
    exec c.instr s = .next t → t.err = .ok →
    t.olen = s.len ∧
    (∀ a, a < s.len.toNat → (keystreamBytes s.k s.n s.len.toNat s.ctr)[a]? =
      some (if c = .keystream then t.outMem.read a else t.outMem.read a ^^^ s.inMem.read a)) ∧
    ∀ a, s.len.toNat ≤ a → t.outMem.read a = s.outMem.read a

/-- A request is the concatenation of its parts when it is split at a multiple of 64 bytes and the
counter goes on by the number of blocks; a request of at most one block starts at the first byte of
its block, wherever an earlier one stopped (R195).  The general law is the sentence of R193 that the
spec marks as its own inference, "[derived: from rule R170]". -/
def Obligations.KeystreamSplitsAtBlocks : Prop :=
  (∀ (k : Vector Word 8) (n : Vector Word 2) (p r c : Nat) (z : List Byte),
    keystream k n (64 * p + r) c = some z →
    ∃ u v, keystream k n (64 * p) c = some u ∧ keystream k n r (c + p) = some v ∧ z = u ++ v) ∧
  ∀ (k : Vector Word 8) (n : Vector Word 2) (r c : Nat), r ≤ 64 → c ≤ 2 ^ 64 - 1 →
    keystream k n r c = some ((blockBytes k n c).take r)

/-- Processing is the XOR with the keystream of the same length; for equal `K`, `N`, `CTR_LO`,
`CTR_HI`, `LEN`, the bytes of `ENCRYPT` are `IN[a]` XOR the bytes of `KEYSTREAM` (R190). -/
def Obligations.EncryptIsXorWithKeystream : Prop :=
  (∀ k n data c z, process k n data c = some z → ∃ ks, keystream k n data.length c = some ks ∧
    z = data.zipWith (fun p b => p ^^^ b) ks) ∧
  ∀ s1 s2 t1 t2 : State,
    s1.params.level = .functional → s2.params.level = .functional →
    s1.outMem.wf = true → s2.outMem.wf = true →
    s1.k = s2.k → s1.n = s2.n → s1.ctrLo = s2.ctrLo → s1.ctrHi = s2.ctrHi → s1.len = s2.len →
    exec .keystream s1 = .next t1 → t1.err = .ok →
    exec .encrypt s2 = .next t2 → t2.err = .ok →
    ∀ a, a < s1.len.toNat → t2.outMem.read a = s2.inMem.read a ^^^ t1.outMem.read a

/-- Processing twice is the identity; encrypting the output of an `ENCRYPT` again, by `ENCRYPT` or
`DECRYPT`, with the same instance, counter and length gives the original input (R191). -/
def Obligations.EncryptTwiceIsTheIdentity : Prop :=
  (∀ k n data c z, process k n data c = some z → process k n z c = some data) ∧
  ∀ (s1 s2 t1 t2 : State) (c : Command), c = .encrypt ∨ c = .decrypt →
    s1.params.level = .functional → s2.params.level = .functional →
    s1.outMem.wf = true → s2.outMem.wf = true →
    s1.k = s2.k → s1.n = s2.n → s1.ctrLo = s2.ctrLo → s1.ctrHi = s2.ctrHi → s1.len = s2.len →
    exec .encrypt s1 = .next t1 → t1.err = .ok →
    (∀ a, a < s1.len.toNat → s2.inMem.read a = t1.outMem.read a) →
    exec c.instr s2 = .next t2 → t2.err = .ok →
    ∀ a, a < s1.len.toNat → t2.outMem.read a = s1.inMem.read a

/-! ### Whole-machine rules -/

/-- The invariant holds after reset, whatever the reset draws, and at `State.reset` (R38). -/
def Obligations.InvariantHoldsAtReset : Prop :=
  (State.reset.Inv ∧ State.reset.workMatches) ∧
  ∀ (p : Params) (d : ResetDraw), 1 ≤ p.lenW → p.lenW ≤ 32 →
    (State.resetTo p d).Inv ∧ (State.resetTo p d).workMatches

/-- Every step keeps the invariant: registers within `LEN_W`, canonical byte spaces, a legal
sequencer position (R28, R29, R32, R50, R184). -/
def Obligations.StepKeepsTheInvariant : Prop :=
  ∀ s t : State, s.Inv → step s = .next t → t.Inv

/-- Every step keeps the working state exactly as far through the block function as the position
says, so that at `EMIT` `X` is `block(K, N, counter_init + BI)` (R145, R146, R149, R150, R189). -/
def Obligations.StepKeepsTheWorkingState : Prop :=
  ∀ s t : State, s.Inv → s.workMatches → step s = .next t → t.workMatches

/-- The two descriptions of a command agree (R189): run from dispatch, the sequencer ends after
exactly the micro-operations of rule R183 in the state the functional description gives.  That the
hidden fields agree too is the model's choice of free values (notes/assumptions/4.md). -/
def Obligations.SequencerAgreesWithTheFunctions : Prop :=
  ∀ (s t : State) (c : Command), s.Inv → s.ready →
    exec c.instr (s.atLevel .functional) = .next t →
    ∃ u, exec c.instr (s.atLevel .sequenced) = .next u ∧
      Host.Core.run Sys2Proof.core (s.microOps c) u = .next (t.atLevel .sequenced)

/-- Every command in progress ends: within 83 micro-operations a block the position returns to
`IDLE`, and not before the last of them (R185). -/
def Obligations.EveryCommandEnds : Prop :=
  ∀ s : State, s.Inv → s.resetIn = none → s.pos.ph ≠ .idle →
    ∃ k t, k ≤ 83 * (if s.opc = 2 then 1 else s.nblk) ∧
      Host.Core.run Sys2Proof.core k s = .next t ∧ t.pos = Pos.idle ∧ t.err = .ok ∧
      t.olen = (if s.opc = 2 then 0 else s.len) ∧
      ∀ j u, j < k → Host.Core.run Sys2Proof.core j s = .next u → u.pos.ph ≠ .idle

/-- No state that meets the invariant faults (R226, R128). -/
def Obligations.LegalStatesNeverFault : Prop :=
  ∀ (s : State) (r : Fault), s.Inv → step s ≠ .fault r

/-- The path of the sequencer depends on the position, the opcode and `LEN` only: no key, nonce,
counter, data or computed word changes it (R184, R255). -/
def Obligations.SequencerPathIgnoresSecrets : Prop :=
  ∀ s s' t t' : State, s.resetIn = none → s'.resetIn = none → s.pos.ph ≠ .idle →
    s.pos = s'.pos → s.opc = s'.opc → s.len = s'.len →
    step s = .next t → step s' = .next t' → t.pos = t'.pos

/-- What the host reads does not depend on `K`, `N`, `KEYIN`, `IN` or the hidden working state: two
states that agree on the readable registers and `OUT` answer every read alike (R24, R39, R233). -/
def Obligations.HostReadsHideTheSecrets : Prop :=
  ∀ s s' : State, s.sameToHost s' →
    (∀ r, ∃ t t', exec (.rd r) s = .next t ∧ exec (.rd r) s' = .next t' ∧ t.rdata = t'.rdata) ∧
    ∀ a t t', exec (.rout a) s = .next t → exec (.rout a) s' = .next t' → t.rdata = t'.rdata

/-- The only writer of `K` and `N` is a `NEW` with a key of 32 bytes (R21, R22). -/
def Obligations.OnlyNewWritesTheInstance : Prop :=
  ∀ (i : Instr) (s t : State), exec i s = .next t → t.k ≠ s.k ∨ t.n ≠ s.n →
    (i = .new ∨ i = .wr .cmd 1) ∧ s.klen = 32

/-- No command and no micro-operation writes a staging or operand register, and only `WIN` writes
`IN` (R24 to R28, R52). -/
def Obligations.CommandsLeaveTheOperands : Prop :=
  ∀ (i : Instr) (s t : State), exec i s = .next t →
    ((∀ r v, i = .wr r v → r = .cmd) →
      t.keyin = s.keyin ∧ t.klen = s.klen ∧ t.nonceLo = s.nonceLo ∧ t.nonceHi = s.nonceHi ∧
      t.ctrLo = s.ctrLo ∧ t.ctrHi = s.ctrHi ∧ t.len = s.len) ∧
    ((∀ a b, i ≠ .win a b) → t.inMem = s.inMem)

/-- `OUT` is written by the data commands and `U_EMIT` only, `BLK` by `BLOCK` and `U_EMIT` only
(R30, R53). -/
def Obligations.OnlyResultsAreWritten : Prop :=
  ∀ (i : Instr) (s t : State), exec i s = .next t →
    (t.outMem ≠ s.outMem → i = .keystream ∨ i = .encrypt ∨ i = .decrypt ∨ i = .uEmit ∨
      i = .wr .cmd 3 ∨ i = .wr .cmd 4 ∨ i = .wr .cmd 5) ∧
    (t.blk ≠ s.blk → i = .block ∨ i = .uEmit ∨ i = .wr .cmd 2)

/-- A failed command has written nothing but `ERR`, `OLEN`, for `InvalidKeyLength` also `VALID`
(R228, R177).  `OPC` is not defined afterwards (U4); `overflowMark` is the model's own. -/
def Obligations.FailedCommandsAreInert : Prop :=
  ∀ (s t : State) (c : Command), s.params.level = .functional → s.pos = Pos.idle →
    exec c.instr s = .next t → t.err ≠ .ok →
    t = { s with err := t.err, olen := 0, valid := (if c = .new then false else s.valid),
                 opc := t.opc, draws := t.draws, overflowMark := t.overflowMark }

/-- Issuing a command twice with the same operands leaves the same state as issuing it once, the
hidden state apart (R60). -/
def Obligations.RepeatingACommandChangesNothingMore : Prop :=
  ∀ (s t : State) (c : Command), s.Inv → s.params.level = .functional → s.ready →
    exec c.instr s = .next t →
    ∃ u, exec c.instr t = .next u ∧ u = t.hiddenAs u
end

