-- ==== Sys2Proof/Laws/Cipher.lean ====
section
/-! SUPPORT. The laws of the cipher functions: lengths, the byte at each index, how blocks
concatenate, and the double round as a fold over the schedule. -/

namespace Sys2Proof.Machine

/-! ### Packing -/

@[simp] theorem bytes32_length (w : Word) : (bytes32 w).length = 4 := rfl

theorem bytes32_getElem (w : Word) (k : Nat) (h : k < 4) :
    (bytes32 w)[k]'(by simpa using h) = w.extractLsb' (8 * k) 8 := by
  match k, h with
  | 0, _ | 1, _ | 2, _ | 3, _ => rfl

@[simp] theorem lo32_toNat (c : Nat) : (lo32 c).toNat = c % 2 ^ 32 := by simp [lo32]

@[simp] theorem hi32_toNat (c : Nat) : (hi32 c).toNat = c / 2 ^ 32 % 2 ^ 32 := by simp [hi32]

/-- A `u64` has 64 bits. -/
theorem u64_lt (lo hi : Word) : u64 lo hi < 2 ^ 64 := by
  have h1 := lo.isLt
  have h2 := hi.isLt
  simp only [u64]
  omega

/-- `rotl32` is the rotation of a 32-bit vector. -/
theorem rotl32_eq_rotateLeft (x : Word) (n : Nat) : rotl32 x n = x.rotateLeft n := by
  rw [rotl32, BitVec.rotateLeft_def]
  split
  · rename_i h
    simp [h, BitVec.ushiftRight_eq_zero]
  · rfl

/-! ### The schedule -/

theorem sched_toList : sched.toList =
    [⟨0, 4, 8, 12⟩, ⟨1, 5, 9, 13⟩, ⟨2, 6, 10, 14⟩, ⟨3, 7, 11, 15⟩,
      ⟨0, 5, 10, 15⟩, ⟨1, 6, 11, 12⟩, ⟨2, 7, 8, 13⟩, ⟨3, 4, 9, 14⟩] := rfl

/-- One more double round at the end is one more at the start. -/
theorem doubleRounds_succ (r : Nat) (x : Vector Word 16) :
    doubleRounds (r + 1) x = doubleRound (doubleRounds r x) := by
  induction r generalizing x with
  | zero => rfl
  | succ r ih => rw [doubleRounds, ih, ← doubleRounds]

/-- What `qrs` leaves at an index. -/
theorem qrs_getElem (x : Vector Word 16) (g : Group) (j : Nat) (h : j < 16) :
    (qrs x g)[j] =
      if g.d.val = j then (qr x[g.a] x[g.b] x[g.c] x[g.d]).2.2.2
      else if g.c.val = j then (qr x[g.a] x[g.b] x[g.c] x[g.d]).2.2.1
      else if g.b.val = j then (qr x[g.a] x[g.b] x[g.c] x[g.d]).2.1
      else if g.a.val = j then (qr x[g.a] x[g.b] x[g.c] x[g.d]).1
      else x[j] := by
  simp only [qrs, Vector.getElem_set]

/-! ### The block function -/

@[simp] theorem feedForward_getElem (x s : Vector Word 16) (j : Nat) (h : j < 16) :
    (feedForward x s)[j] = x[j] + s[j] := by
  simp [feedForward, add32]

theorem flatMap_bytes32_length (ws : List Word) : (ws.flatMap bytes32).length = 4 * ws.length := by
  induction ws with
  | nil => rfl
  | cons w ws ih =>
    rw [List.flatMap_cons, List.length_append, ih, bytes32_length, List.length_cons]
    omega

/-- Byte `4j + k` of a word list's bytes is byte `k` of word `j`. -/
theorem flatMap_bytes32_getElem (ws : List Word) (j k : Nat) (hj : j < ws.length) (hk : k < 4) :
    (ws.flatMap bytes32)[4 * j + k]? = some (ws[j].extractLsb' (8 * k) 8) := by
  induction ws generalizing j with
  | nil => exact absurd hj (Nat.not_lt_zero _)
  | cons w ws ih =>
    rw [List.flatMap_cons]
    cases j with
    | zero =>
      rw [List.getElem?_append_left (by simpa using hk), List.getElem?_eq_getElem (by simpa using hk)]
      simpa using bytes32_getElem w k hk
    | succ j =>
      rw [List.getElem?_append_right (by simp; omega), bytes32_length,
        show 4 * (j + 1) + k - 4 = 4 * j + k by omega]
      exact ih j (by simpa using hj)

@[simp] theorem serialize_length (w : Vector Word 16) : (serialize w).length = 64 := by
  simp [serialize]

@[simp] theorem blockBytes_length (k : Vector Word 8) (n : Vector Word 2) (c : Nat) :
    (blockBytes k n c).length = 64 := serialize_length _

/-! ### Keystream -/

@[simp] theorem blocksFrom_zero (k : Vector Word 8) (n : Vector Word 2) (c0 : Nat) :
    blocksFrom k n c0 0 = [] := rfl

/-- Blocks concatenate: a longer run is a run followed by the run from the next counter. -/
theorem blocksFrom_add (k : Vector Word 8) (n : Vector Word 2) (c0 b b' : Nat) :
    blocksFrom k n c0 (b + b') = blocksFrom k n c0 b ++ blocksFrom k n (c0 + b) b' := by
  simp [blocksFrom, List.range_add, List.flatMap_map, Nat.add_assoc]

theorem blocksFrom_succ (k : Vector Word 8) (n : Vector Word 2) (c0 b : Nat) :
    blocksFrom k n c0 (b + 1) = blocksFrom k n c0 b ++ blockBytes k n (c0 + b) := by
  rw [blocksFrom_add]
  simp [blocksFrom]

@[simp] theorem blocksFrom_length (k : Vector Word 8) (n : Vector Word 2) (c0 b : Nat) :
    (blocksFrom k n c0 b).length = 64 * b := by
  induction b with
  | zero => rfl
  | succ b ih => rw [blocksFrom_succ, List.length_append, ih, blockBytes_length]; omega

/-- Byte `a` of a run of blocks is byte `a mod 64` of block `a div 64`. -/
theorem blocksFrom_getElem (k : Vector Word 8) (n : Vector Word 2) (c0 b a : Nat)
    (h : a < 64 * b) :
    (blocksFrom k n c0 b)[a]? = (blockBytes k n (c0 + a / 64))[a % 64]? := by
  induction b with
  | zero => omega
  | succ b ih =>
    rw [blocksFrom_succ]
    by_cases hb : a < 64 * b
    · rw [List.getElem?_append_left (by simpa using hb), ih hb]
    · rw [List.getElem?_append_right (by simpa using Nat.le_of_not_lt hb), blocksFrom_length,
        show a / 64 = b by omega, show a - 64 * b = a % 64 by omega]

/-- A request has enough blocks. -/
theorem le_nblk (len : Nat) : len ≤ 64 * nblk len := by
  simp only [nblk]; omega

/-- When a request passes the top counter (R223). -/
theorem counterOverflows_iff (n c0 : Nat) :
    counterOverflows n c0 = true ↔ 1 ≤ nblk n ∧ 2 ^ 64 - 1 < c0 + (nblk n - 1) := by
  rw [counterOverflows, Bool.and_eq_true, decide_eq_true_iff, decide_eq_true_iff]

/-- When it does not: no block, or the last block is at a legal counter. -/
theorem counterOverflows_false_iff (n c0 : Nat) :
    counterOverflows n c0 = false ↔ nblk n = 0 ∨ c0 + (nblk n - 1) ≤ 2 ^ 64 - 1 := by
  rw [← Bool.not_eq_true, counterOverflows_iff]
  omega

@[simp] theorem keystreamBytes_length (k : Vector Word 8) (n : Vector Word 2) (len c0 : Nat) :
    (keystreamBytes k n len c0).length = len := by
  simp [keystreamBytes, le_nblk]

/-- Byte `a` of a keystream is byte `a mod 64` of block `a div 64`. -/
theorem keystreamBytes_getElem (k : Vector Word 8) (n : Vector Word 2) (len c0 a : Nat)
    (h : a < len) :
    (keystreamBytes k n len c0)[a]? = (blockBytes k n (c0 + a / 64))[a % 64]? := by
  rw [keystreamBytes, List.getElem?_take_of_lt h, blocksFrom_getElem]
  exact lt_of_lt_of_le h (le_nblk len)

@[simp] theorem xorBytes_length (data ks : List Byte) :
    (xorBytes data ks).length = min data.length ks.length := by
  simp [xorBytes]

theorem xorBytes_getElem (data ks : List Byte) (a : Nat) (hd : a < data.length)
    (hk : a < ks.length) :
    (xorBytes data ks)[a]'(by simp [hd, hk]) = data[a] ^^^ ks[a] := by
  simp [xorBytes, xor8]

end Sys2Proof.Machine
end

