-- ==== Sys2Proof/Laws/Decode.lean ====
section
/-! SUPPORT. The laws of the word formats: the fields of a `HOST` word built from its fields, and
register numbers as a partial inverse of register names. -/

namespace Sys2Proof

/-- Each bit of a `HOST` word is a bit of one of its fields. -/
theorem hostWord_getLsbD (sel : BitVec 2) (we : Bool) (addr wdata : Word) (i : Nat) :
    (hostWord sel we addr wdata).getLsbD i =
      if i < 32 then wdata.getLsbD i
      else if i < 64 then addr.getLsbD (i - 32)
      else if i = 64 then we
      else sel.getLsbD (i - 65) := by
  have h : (hostWord sel we addr wdata).getLsbD i =
      BitVec.getLsbD (w := 2 + 1 + 32 + 32) (sel ++ BitVec.ofBool we ++ addr ++ wdata) i := rfl
  rw [h]
  simp only [BitVec.getLsbD_append]
  by_cases h1 : i < 32
  · simp [h1]
  · by_cases h2 : i < 64
    · rw [if_neg h1, if_pos (by omega), if_neg h1, if_pos h2]
    · rw [if_neg h1, if_neg (by omega), if_neg h1, if_neg h2]
      by_cases h3 : i = 64
      · simp [h3]
      · rw [if_neg (by omega), if_neg h3]
        congr 1

@[simp] theorem hostWord_sel (sel : BitVec 2) (we : Bool) (addr wdata : Word) :
    (hostWord sel we addr wdata).sel = sel := by
  ext i hi
  simp only [HostWord.sel, BitVec.getElem_extractLsb', hostWord_getLsbD]
  rw [if_neg (by omega), if_neg (by omega), if_neg (by omega)]
  simp [BitVec.getLsbD_eq_getElem hi]

@[simp] theorem hostWord_we (sel : BitVec 2) (we : Bool) (addr wdata : Word) :
    (hostWord sel we addr wdata).we = we := by
  rw [HostWord.we, hostWord_getLsbD]
  rfl

@[simp] theorem hostWord_addr (sel : BitVec 2) (we : Bool) (addr wdata : Word) :
    (hostWord sel we addr wdata).addr = addr := by
  ext i hi
  simp only [HostWord.addr, BitVec.getElem_extractLsb', hostWord_getLsbD]
  rw [if_neg (by omega), if_pos (by omega)]
  simp [BitVec.getLsbD_eq_getElem hi]

@[simp] theorem hostWord_wdata (sel : BitVec 2) (we : Bool) (addr wdata : Word) :
    (hostWord sel we addr wdata).wdata = wdata := by
  ext i hi
  simp only [HostWord.wdata, BitVec.getElem_extractLsb', hostWord_getLsbD]
  rw [if_pos (by omega)]
  simp [BitVec.getLsbD_eq_getElem hi]

/-- Decoding a `HOST` word is decoding its bits. -/
theorem decode_host (w : HostWord) : decode .host w.toNat = decodeHost w := by
  simp only [decode, Format.width, if_pos w.isLt, BitVec.ofNat_toNat, BitVec.setWidth_eq]

/-- A register's number names that register. -/
@[simp] theorem regOfNumber_number (r : Reg) : regOfNumber r.number = some r := by
  cases r with
  | keyin j => fin_cases j <;> rfl
  | blk j => fin_cases j <;> rfl
  | _ => rfl

theorem Reg.number_lt (r : Reg) : r.number < 48 := by
  cases r <;> simp only [Reg.number] <;> omega

/-- An address below 64 is a register number; at or above, it names no register. -/
theorem decodeReg_eq (addr : Word) :
    decodeReg addr = if addr.toNat < 64 then regOfNumber addr.toNat else none := by
  have h6 : (addr.extractLsb' 6 26).toNat = addr.toNat / 64 := by
    rw [BitVec.extractLsb'_toNat, Nat.shiftRight_eq_div_pow]
    have := addr.isLt
    omega
  have h0 : (addr.extractLsb' 0 6).toNat = addr.toNat % 64 := by
    rw [BitVec.extractLsb'_toNat, Nat.shiftRight_zero]
  have hz : addr.extractLsb' 6 26 = 0 ↔ addr.toNat < 64 := by
    rw [← BitVec.toNat_inj, h6, show (0 : BitVec 26).toNat = 0 from rfl]
    omega
  simp only [decodeReg, hz, h0]
  split
  · rw [Nat.mod_eq_of_lt (by assumption)]
  · rfl

/-- A register's number, as an address, decodes to that register. -/
@[simp] theorem decodeReg_number (r : Reg) : decodeReg (BitVec.ofNat 32 r.number) = some r := by
  have h := Reg.number_lt r
  have e : (BitVec.ofNat 32 r.number).toNat = r.number := by
    rw [BitVec.toNat_ofNat, Nat.mod_eq_of_lt (by omega)]
  rw [decodeReg_eq, e, if_pos (by omega), regOfNumber_number]

end Sys2Proof
end

