-- ==== Sys2Proof/Laws/Memory.lean ====
section
/-! SUPPORT. The laws of a byte space: a read after a write, that every operation keeps the canonical
form and the bound, that canonical spaces with equal bytes are equal, and the same for byte
sequences. -/

namespace Sys2Proof.Machine

/-! ### One byte -/

theorem Memory.read_of_all_gt (m : Memory) (a : Nat) (h : m.all (fun c => a < c.1) = true) :
    Memory.read m a = Memory.fill := by
  induction m with
  | nil => rfl
  | cons c m ih =>
    obtain ⟨b, v⟩ := c
    simp only [List.all_cons, Bool.and_eq_true, decide_eq_true_eq] at h
    simp only [Memory.read]
    rw [if_neg (by omega)]
    exact ih h.2

theorem Memory.wf_cons (c : Host.Cell) (m : Memory) :
    Memory.wf (c :: m) = true ↔
      c.2 ≠ Memory.fill ∧ m.all (fun d => c.1 < d.1) = true ∧ Memory.wf m = true := by
  obtain ⟨a, v⟩ := c
  simp [Memory.wf, and_assoc]

/-- A read after a write gives the byte written there, and what was there elsewhere. -/
theorem Memory.read_write (m : Memory) (a b : Nat) (v : Byte) (h : Memory.wf m = true) :
    Memory.read (Memory.write m a v) b = if b = a then v else Memory.read m b := by
  induction m with
  | nil =>
    by_cases hv : v = Memory.fill <;> simp [Memory.write, Memory.read, hv]
  | cons c m ih =>
    obtain ⟨x, w⟩ := c
    obtain ⟨-, hall, hm⟩ := (Memory.wf_cons _ _).1 h
    have below : ∀ y ≤ x, Memory.read m y = Memory.fill := fun y hy =>
      Memory.read_of_all_gt m y (by
        simp only [List.all_eq_true, decide_eq_true_eq] at hall ⊢
        exact fun d hd => lt_of_le_of_lt hy (hall d hd))
    rcases Nat.lt_trichotomy a x with hlt | heq | hgt
    · by_cases hv : v = Memory.fill
      · simp only [Memory.write, if_pos hlt, hv]
        by_cases hb : b = a
        · subst hb
          simp [Memory.read, Nat.ne_of_lt hlt, below b (Nat.le_of_lt hlt)]
        · simp [hb]
      · simp only [Memory.write, if_pos hlt, if_neg hv, Memory.read]
    · subst heq
      by_cases hv : v = Memory.fill
      · simp only [Memory.write, if_true, Nat.lt_irrefl, if_false, hv, Memory.read]
        by_cases hb : b = a
        · subst hb; simp [below b (Nat.le_refl _)]
        · simp [hb]
      · simp only [Memory.write, if_true, Nat.lt_irrefl, if_false, if_neg hv, Memory.read]
        split <;> rfl
    · simp only [Memory.write, if_neg (Nat.not_lt_of_gt hgt), if_neg (Nat.ne_of_gt hgt),
        Memory.read, ih hm]
      by_cases hb : b = x
      · subst hb; simp [Nat.ne_of_lt hgt]
      · simp [hb]

theorem Memory.all_write (p : Host.Cell → Bool) (m : Memory) (a : Nat) (v : Byte)
    (h : m.all p = true) (ha : p (a, v) = true) : (Memory.write m a v).all p = true := by
  induction m with
  | nil => by_cases hv : v = Memory.fill <;> simp [Memory.write, hv, ha]
  | cons c m ih =>
    obtain ⟨x, w⟩ := c
    simp only [List.all_cons, Bool.and_eq_true] at h
    simp only [Memory.write]
    split
    · split <;> simp [h.1, h.2, ha]
    · split
      · split <;> simp [h.2, ha]
      · simp [h.1, ih h.2]

/-- A write keeps the canonical form. -/
theorem Memory.wf_write (m : Memory) (a : Nat) (v : Byte) (h : Memory.wf m = true) :
    Memory.wf (Memory.write m a v) = true := by
  induction m with
  | nil => by_cases hv : v = Memory.fill <;> simp [Memory.write, Memory.wf, hv]
  | cons c m ih =>
    obtain ⟨x, w⟩ := c
    obtain ⟨hw, hall, hm⟩ := (Memory.wf_cons _ _).1 h
    simp only [Memory.write]
    split
    · rename_i hlt
      split
      · exact h
      · rename_i hv
        refine (Memory.wf_cons _ _).2 ⟨hv, ?_, h⟩
        simp only [List.all_cons, Bool.and_eq_true, decide_eq_true_eq, List.all_eq_true] at hall ⊢
        exact ⟨hlt, fun d hd => lt_trans hlt (hall d hd)⟩
    · split
      · rename_i heq
        subst heq
        split
        · exact hm
        · rename_i hv
          exact (Memory.wf_cons _ _).2 ⟨hv, hall, hm⟩
      · rename_i hnlt hne
        refine (Memory.wf_cons _ _).2 ⟨hw, ?_, ih hm⟩
        exact Memory.all_write _ m a v hall (by simp only [decide_eq_true_eq]; omega)

/-- A write below the bound keeps the bound. -/
theorem Memory.within_write (bound : Nat) (m : Memory) (a : Nat) (v : Byte)
    (h : Memory.within bound m = true) (ha : a < bound) :
    Memory.within bound (Memory.write m a v) = true :=
  Memory.all_write _ m a v h (by simpa using ha)

/-- An address at or above the bound is unlisted. -/
theorem Memory.read_of_within (bound : Nat) (m : Memory) (a : Nat)
    (h : Memory.within bound m = true) (ha : bound ≤ a) : Memory.read m a = Memory.fill := by
  induction m with
  | nil => rfl
  | cons c m ih =>
    obtain ⟨b, v⟩ := c
    simp only [Memory.within, List.all_cons, Bool.and_eq_true, decide_eq_true_eq] at h
    simp only [Memory.read]
    rw [if_neg (by omega)]
    exact ih h.2

/-- Canonical spaces that read the same everywhere are the same data. -/
theorem Memory.ext_read (m m' : Memory) (h : Memory.wf m = true) (h' : Memory.wf m' = true)
    (hr : ∀ a, Memory.read m a = Memory.read m' a) : m = m' := by
  induction m generalizing m' with
  | nil =>
    cases m' with
    | nil => rfl
    | cons c m' =>
      obtain ⟨b, v⟩ := c
      have := hr b
      simp only [Memory.read, if_true] at this
      exact absurd this.symm ((Memory.wf_cons _ _).1 h').1
  | cons c m ih =>
    obtain ⟨a, v⟩ := c
    obtain ⟨hv, hall, hm⟩ := (Memory.wf_cons _ _).1 h
    have hga : Memory.read m a = Memory.fill := Memory.read_of_all_gt m a hall
    cases m' with
    | nil =>
      have := hr a
      simp only [Memory.read, if_true] at this
      exact absurd this hv
    | cons c' m' =>
      obtain ⟨b, w⟩ := c'
      obtain ⟨hw, hall', hm'⟩ := (Memory.wf_cons _ _).1 h'
      have hgb : Memory.read m' b = Memory.fill := Memory.read_of_all_gt m' b hall'
      have hab : a = b := by
        rcases Nat.lt_trichotomy a b with hlt | heq | hgt
        · have := hr a
          simp only [Memory.read, if_true, if_neg (Nat.ne_of_lt hlt)] at this
          rw [Memory.read_of_all_gt m' a (by
            simp only [List.all_eq_true, decide_eq_true_eq] at hall' ⊢
            exact fun d hd => lt_trans hlt (hall' d hd))] at this
          exact absurd this hv
        · exact heq
        · have := hr b
          simp only [Memory.read, if_true, if_neg (Nat.ne_of_lt hgt)] at this
          rw [Memory.read_of_all_gt m b (by
            simp only [List.all_eq_true, decide_eq_true_eq] at hall ⊢
            exact fun d hd => lt_trans hgt (hall d hd))] at this
          exact absurd this.symm hw
      subst hab
      have hvw : v = w := by simpa [Memory.read] using hr a
      subst hvw
      have : m = m' := ih m' hm hm' fun x => by
        by_cases hx : x = a
        · subst hx; rw [hga, hgb]
        · simpa [Memory.read, hx] using hr x
      rw [this]

/-! ### Sequences of bytes -/

@[simp] theorem Memory.writeBytes_nil (m : Memory) (a : Nat) : m.writeBytes a [] = m := rfl

/-- Writing a concatenation is writing its parts one after the other. -/
theorem Memory.writeBytes_append (m : Memory) (a : Nat) (u v : List Byte) :
    m.writeBytes a (u ++ v) = (m.writeBytes a u).writeBytes (a + u.length) v := by
  induction u generalizing m a with
  | nil => rfl
  | cons b u ih =>
    simp only [List.cons_append, Memory.writeBytes, ih, List.length_cons]
    congr 1
    omega

theorem Memory.wf_writeBytes (m : Memory) (a : Nat) (bs : List Byte) (h : Memory.wf m = true) :
    Memory.wf (m.writeBytes a bs) = true := by
  induction bs generalizing m a with
  | nil => exact h
  | cons b bs ih => exact ih _ _ (Memory.wf_write m a b h)

theorem Memory.within_writeBytes (bound : Nat) (m : Memory) (a : Nat) (bs : List Byte)
    (h : Memory.within bound m = true) (ha : a + bs.length ≤ bound) :
    Memory.within bound (m.writeBytes a bs) = true := by
  induction bs generalizing m a with
  | nil => exact h
  | cons b bs ih =>
    simp only [List.length_cons] at ha
    exact ih _ _ (Memory.within_write bound m a b h (by omega)) (by omega)

/-- What each address reads after a sequence of bytes is written. -/
theorem Memory.read_writeBytes (m : Memory) (a x : Nat) (bs : List Byte)
    (h : Memory.wf m = true) :
    Memory.read (m.writeBytes a bs) x =
      if hx : a ≤ x ∧ x < a + bs.length then bs[x - a]'(by omega) else Memory.read m x := by
  induction bs generalizing m a with
  | nil =>
    simp only [Memory.writeBytes, List.length_nil]
    rw [dif_neg (by omega)]
  | cons b bs ih =>
    rw [Memory.writeBytes, ih _ _ (Memory.wf_write m a b h), Memory.read_write m a x b h]
    by_cases hxa : x = a
    · subst hxa
      simp
    · simp only [List.length_cons, hxa, if_false]
      by_cases hin : a + 1 ≤ x ∧ x < a + 1 + bs.length
      · rw [dif_pos hin, dif_pos (by omega)]
        rw [List.getElem_cons]
        rw [dif_neg (by omega)]
        congr 1
      · rw [dif_neg hin, dif_neg (by omega)]

@[simp] theorem Memory.readBytes_length (m : Memory) (a n : Nat) : (m.readBytes a n).length = n := by
  simp [Memory.readBytes]

theorem Memory.readBytes_getElem (m : Memory) (a n i : Nat) (h : i < (m.readBytes a n).length) :
    (m.readBytes a n)[i] = m.read (a + i) := by
  simp [Memory.readBytes]

/-- Reading a longer sequence is reading its parts one after the other. -/
theorem Memory.readBytes_append (m : Memory) (a n n' : Nat) :
    m.readBytes a (n + n') = m.readBytes a n ++ m.readBytes (a + n) n' := by
  simp [Memory.readBytes, List.range_add, Nat.add_assoc]

/-! ### Contents drawn at reset -/

theorem Memory.ofCells_canonical (lenW : Nat) (cells : List Host.Cell) :
    Memory.wf (Memory.ofCells lenW cells) = true ∧
      Memory.within (2 ^ lenW) (Memory.ofCells lenW cells) = true := by
  suffices h : ∀ m : Memory, Memory.wf m = true → Memory.within (2 ^ lenW) m = true →
      Memory.wf (cells.foldl (fun m c =>
        if c.1 < 2 ^ lenW then Memory.write m c.1 c.2 else m) m) = true ∧
      Memory.within (2 ^ lenW) (cells.foldl (fun m c =>
        if c.1 < 2 ^ lenW then Memory.write m c.1 c.2 else m) m) = true from
    h [] rfl rfl
  induction cells with
  | nil => exact fun m hw hb => ⟨hw, hb⟩
  | cons c cells ih =>
    intro m hw hb
    simp only [List.foldl_cons]
    split
    · rename_i hc
      exact ih _ (Memory.wf_write m _ _ hw) (Memory.within_write _ m _ _ hb hc)
    · exact ih _ hw hb

end Sys2Proof.Machine
end

