-- ==== Sys2Proof/Laws/State.lean ====
section
/-! SUPPORT. One lemma per field per shared update of State, so that no later proof unfolds a record
update.  The table is regular: for each operation of Ops, Datapath, Sequencer, Commands and Operands,
what each field is afterwards. -/

namespace Sys2Proof.Machine

variable (s : State)

/-! ### State.answerWrite -/

@[simp] theorem State.answerWrite_params : s.answerWrite.params = s.params := rfl
@[simp] theorem State.answerWrite_k : s.answerWrite.k = s.k := rfl
@[simp] theorem State.answerWrite_n : s.answerWrite.n = s.n := rfl
@[simp] theorem State.answerWrite_valid : s.answerWrite.valid = s.valid := rfl
@[simp] theorem State.answerWrite_keyin : s.answerWrite.keyin = s.keyin := rfl
@[simp] theorem State.answerWrite_klen : s.answerWrite.klen = s.klen := rfl
@[simp] theorem State.answerWrite_nonceLo : s.answerWrite.nonceLo = s.nonceLo := rfl
@[simp] theorem State.answerWrite_nonceHi : s.answerWrite.nonceHi = s.nonceHi := rfl
@[simp] theorem State.answerWrite_ctrLo : s.answerWrite.ctrLo = s.ctrLo := rfl
@[simp] theorem State.answerWrite_ctrHi : s.answerWrite.ctrHi = s.ctrHi := rfl
@[simp] theorem State.answerWrite_len : s.answerWrite.len = s.len := rfl
@[simp] theorem State.answerWrite_err : s.answerWrite.err = s.err := rfl
@[simp] theorem State.answerWrite_olen : s.answerWrite.olen = s.olen := rfl
@[simp] theorem State.answerWrite_blk : s.answerWrite.blk = s.blk := rfl
@[simp] theorem State.answerWrite_inMem : s.answerWrite.inMem = s.inMem := rfl
@[simp] theorem State.answerWrite_outMem : s.answerWrite.outMem = s.outMem := rfl
@[simp] theorem State.answerWrite_x : s.answerWrite.x = s.x := rfl
@[simp] theorem State.answerWrite_saved : s.answerWrite.saved = s.saved := rfl
@[simp] theorem State.answerWrite_pos : s.answerWrite.pos = s.pos := rfl
@[simp] theorem State.answerWrite_opc : s.answerWrite.opc = s.opc := rfl
@[simp] theorem State.answerWrite_port : s.answerWrite.port = s.port := rfl
@[simp] theorem State.answerWrite_rdata : s.answerWrite.rdata = Config.freeRdata s.draws := rfl
@[simp] theorem State.answerWrite_resetIn : s.answerWrite.resetIn = s.resetIn := rfl
@[simp] theorem State.answerWrite_draws : s.answerWrite.draws = s.draws + 1 := rfl
@[simp] theorem State.answerWrite_overflowMark : s.answerWrite.overflowMark = s.overflowMark := rfl

/-! ### State.answerRead -/

@[simp] theorem State.answerRead_params (v : Word) : (s.answerRead v).params = s.params := rfl
@[simp] theorem State.answerRead_k (v : Word) : (s.answerRead v).k = s.k := rfl
@[simp] theorem State.answerRead_n (v : Word) : (s.answerRead v).n = s.n := rfl
@[simp] theorem State.answerRead_valid (v : Word) : (s.answerRead v).valid = s.valid := rfl
@[simp] theorem State.answerRead_keyin (v : Word) : (s.answerRead v).keyin = s.keyin := rfl
@[simp] theorem State.answerRead_klen (v : Word) : (s.answerRead v).klen = s.klen := rfl
@[simp] theorem State.answerRead_nonceLo (v : Word) : (s.answerRead v).nonceLo = s.nonceLo := rfl
@[simp] theorem State.answerRead_nonceHi (v : Word) : (s.answerRead v).nonceHi = s.nonceHi := rfl
@[simp] theorem State.answerRead_ctrLo (v : Word) : (s.answerRead v).ctrLo = s.ctrLo := rfl
@[simp] theorem State.answerRead_ctrHi (v : Word) : (s.answerRead v).ctrHi = s.ctrHi := rfl
@[simp] theorem State.answerRead_len (v : Word) : (s.answerRead v).len = s.len := rfl
@[simp] theorem State.answerRead_err (v : Word) : (s.answerRead v).err = s.err := rfl
@[simp] theorem State.answerRead_olen (v : Word) : (s.answerRead v).olen = s.olen := rfl
@[simp] theorem State.answerRead_blk (v : Word) : (s.answerRead v).blk = s.blk := rfl
@[simp] theorem State.answerRead_inMem (v : Word) : (s.answerRead v).inMem = s.inMem := rfl
@[simp] theorem State.answerRead_outMem (v : Word) : (s.answerRead v).outMem = s.outMem := rfl
@[simp] theorem State.answerRead_x (v : Word) : (s.answerRead v).x = s.x := rfl
@[simp] theorem State.answerRead_saved (v : Word) : (s.answerRead v).saved = s.saved := rfl
@[simp] theorem State.answerRead_pos (v : Word) : (s.answerRead v).pos = s.pos := rfl
@[simp] theorem State.answerRead_opc (v : Word) : (s.answerRead v).opc = s.opc := rfl
@[simp] theorem State.answerRead_port (v : Word) : (s.answerRead v).port = s.port := rfl
@[simp] theorem State.answerRead_rdata (v : Word) : (s.answerRead v).rdata = v := rfl
@[simp] theorem State.answerRead_resetIn (v : Word) : (s.answerRead v).resetIn = s.resetIn := rfl
@[simp] theorem State.answerRead_draws (v : Word) : (s.answerRead v).draws = s.draws := rfl
@[simp] theorem State.answerRead_overflowMark (v : Word) : (s.answerRead v).overflowMark = s.overflowMark :=
  rfl

/-! ### State.unlatchOpc -/

@[simp] theorem State.unlatchOpc_params : s.unlatchOpc.params = s.params := rfl
@[simp] theorem State.unlatchOpc_k : s.unlatchOpc.k = s.k := rfl
@[simp] theorem State.unlatchOpc_n : s.unlatchOpc.n = s.n := rfl
@[simp] theorem State.unlatchOpc_valid : s.unlatchOpc.valid = s.valid := rfl
@[simp] theorem State.unlatchOpc_keyin : s.unlatchOpc.keyin = s.keyin := rfl
@[simp] theorem State.unlatchOpc_klen : s.unlatchOpc.klen = s.klen := rfl
@[simp] theorem State.unlatchOpc_nonceLo : s.unlatchOpc.nonceLo = s.nonceLo := rfl
@[simp] theorem State.unlatchOpc_nonceHi : s.unlatchOpc.nonceHi = s.nonceHi := rfl
@[simp] theorem State.unlatchOpc_ctrLo : s.unlatchOpc.ctrLo = s.ctrLo := rfl
@[simp] theorem State.unlatchOpc_ctrHi : s.unlatchOpc.ctrHi = s.ctrHi := rfl
@[simp] theorem State.unlatchOpc_len : s.unlatchOpc.len = s.len := rfl
@[simp] theorem State.unlatchOpc_err : s.unlatchOpc.err = s.err := rfl
@[simp] theorem State.unlatchOpc_olen : s.unlatchOpc.olen = s.olen := rfl
@[simp] theorem State.unlatchOpc_blk : s.unlatchOpc.blk = s.blk := rfl
@[simp] theorem State.unlatchOpc_inMem : s.unlatchOpc.inMem = s.inMem := rfl
@[simp] theorem State.unlatchOpc_outMem : s.unlatchOpc.outMem = s.outMem := rfl
@[simp] theorem State.unlatchOpc_x : s.unlatchOpc.x = s.x := rfl
@[simp] theorem State.unlatchOpc_saved : s.unlatchOpc.saved = s.saved := rfl
@[simp] theorem State.unlatchOpc_pos : s.unlatchOpc.pos = s.pos := rfl
@[simp] theorem State.unlatchOpc_opc : s.unlatchOpc.opc = Config.freeOpc s.draws := rfl
@[simp] theorem State.unlatchOpc_port : s.unlatchOpc.port = s.port := rfl
@[simp] theorem State.unlatchOpc_rdata : s.unlatchOpc.rdata = s.rdata := rfl
@[simp] theorem State.unlatchOpc_resetIn : s.unlatchOpc.resetIn = s.resetIn := rfl
@[simp] theorem State.unlatchOpc_draws : s.unlatchOpc.draws = s.draws + 1 := rfl
@[simp] theorem State.unlatchOpc_overflowMark : s.unlatchOpc.overflowMark = s.overflowMark := rfl

/-! ### State.dropWork -/

@[simp] theorem State.dropWork_params : s.dropWork.params = s.params := rfl
@[simp] theorem State.dropWork_k : s.dropWork.k = s.k := rfl
@[simp] theorem State.dropWork_n : s.dropWork.n = s.n := rfl
@[simp] theorem State.dropWork_valid : s.dropWork.valid = s.valid := rfl
@[simp] theorem State.dropWork_keyin : s.dropWork.keyin = s.keyin := rfl
@[simp] theorem State.dropWork_klen : s.dropWork.klen = s.klen := rfl
@[simp] theorem State.dropWork_nonceLo : s.dropWork.nonceLo = s.nonceLo := rfl
@[simp] theorem State.dropWork_nonceHi : s.dropWork.nonceHi = s.nonceHi := rfl
@[simp] theorem State.dropWork_ctrLo : s.dropWork.ctrLo = s.ctrLo := rfl
@[simp] theorem State.dropWork_ctrHi : s.dropWork.ctrHi = s.ctrHi := rfl
@[simp] theorem State.dropWork_len : s.dropWork.len = s.len := rfl
@[simp] theorem State.dropWork_err : s.dropWork.err = s.err := rfl
@[simp] theorem State.dropWork_olen : s.dropWork.olen = s.olen := rfl
@[simp] theorem State.dropWork_blk : s.dropWork.blk = s.blk := rfl
@[simp] theorem State.dropWork_inMem : s.dropWork.inMem = s.inMem := rfl
@[simp] theorem State.dropWork_outMem : s.dropWork.outMem = s.outMem := rfl
@[simp] theorem State.dropWork_x : s.dropWork.x = Config.freeX s.draws := rfl
@[simp] theorem State.dropWork_saved : s.dropWork.saved = Config.freeS s.draws := rfl
@[simp] theorem State.dropWork_pos : s.dropWork.pos = s.pos := rfl
@[simp] theorem State.dropWork_opc : s.dropWork.opc = s.opc := rfl
@[simp] theorem State.dropWork_port : s.dropWork.port = s.port := rfl
@[simp] theorem State.dropWork_rdata : s.dropWork.rdata = s.rdata := rfl
@[simp] theorem State.dropWork_resetIn : s.dropWork.resetIn = s.resetIn := rfl
@[simp] theorem State.dropWork_draws : s.dropWork.draws = s.draws := rfl
@[simp] theorem State.dropWork_overflowMark : s.dropWork.overflowMark = s.overflowMark := rfl

/-! ### State.raise -/

@[simp] theorem State.raise_params (e : ErrCode) : (s.raise e).params = s.params := rfl
@[simp] theorem State.raise_k (e : ErrCode) : (s.raise e).k = s.k := rfl
@[simp] theorem State.raise_n (e : ErrCode) : (s.raise e).n = s.n := rfl
@[simp] theorem State.raise_valid (e : ErrCode) : (s.raise e).valid = if e = .invalidKeyLength then false else s.valid :=
  rfl
@[simp] theorem State.raise_keyin (e : ErrCode) : (s.raise e).keyin = s.keyin := rfl
@[simp] theorem State.raise_klen (e : ErrCode) : (s.raise e).klen = s.klen := rfl
@[simp] theorem State.raise_nonceLo (e : ErrCode) : (s.raise e).nonceLo = s.nonceLo := rfl
@[simp] theorem State.raise_nonceHi (e : ErrCode) : (s.raise e).nonceHi = s.nonceHi := rfl
@[simp] theorem State.raise_ctrLo (e : ErrCode) : (s.raise e).ctrLo = s.ctrLo := rfl
@[simp] theorem State.raise_ctrHi (e : ErrCode) : (s.raise e).ctrHi = s.ctrHi := rfl
@[simp] theorem State.raise_len (e : ErrCode) : (s.raise e).len = s.len := rfl
@[simp] theorem State.raise_err (e : ErrCode) : (s.raise e).err = e := rfl
@[simp] theorem State.raise_olen (e : ErrCode) : (s.raise e).olen = 0 := rfl
@[simp] theorem State.raise_blk (e : ErrCode) : (s.raise e).blk = s.blk := rfl
@[simp] theorem State.raise_inMem (e : ErrCode) : (s.raise e).inMem = s.inMem := rfl
@[simp] theorem State.raise_outMem (e : ErrCode) : (s.raise e).outMem = s.outMem := rfl
@[simp] theorem State.raise_x (e : ErrCode) : (s.raise e).x = s.x := rfl
@[simp] theorem State.raise_saved (e : ErrCode) : (s.raise e).saved = s.saved := rfl
@[simp] theorem State.raise_pos (e : ErrCode) : (s.raise e).pos = Pos.idle := rfl
@[simp] theorem State.raise_opc (e : ErrCode) : (s.raise e).opc = s.opc := rfl
@[simp] theorem State.raise_port (e : ErrCode) : (s.raise e).port = s.port := rfl
@[simp] theorem State.raise_rdata (e : ErrCode) : (s.raise e).rdata = s.rdata := rfl
@[simp] theorem State.raise_resetIn (e : ErrCode) : (s.raise e).resetIn = s.resetIn := rfl
@[simp] theorem State.raise_draws (e : ErrCode) : (s.raise e).draws = s.draws := rfl
@[simp] theorem State.raise_overflowMark (e : ErrCode) : (s.raise e).overflowMark = (s.overflowMark || e == .counterOverflow) :=
  rfl

/-! ### State.fail -/

@[simp] theorem State.fail_params (e : ErrCode) : (s.fail e).params = s.params := rfl
@[simp] theorem State.fail_k (e : ErrCode) : (s.fail e).k = s.k := rfl
@[simp] theorem State.fail_n (e : ErrCode) : (s.fail e).n = s.n := rfl
@[simp] theorem State.fail_valid (e : ErrCode) : (s.fail e).valid = if e = .invalidKeyLength then false else s.valid :=
  rfl
@[simp] theorem State.fail_keyin (e : ErrCode) : (s.fail e).keyin = s.keyin := rfl
@[simp] theorem State.fail_klen (e : ErrCode) : (s.fail e).klen = s.klen := rfl
@[simp] theorem State.fail_nonceLo (e : ErrCode) : (s.fail e).nonceLo = s.nonceLo := rfl
@[simp] theorem State.fail_nonceHi (e : ErrCode) : (s.fail e).nonceHi = s.nonceHi := rfl
@[simp] theorem State.fail_ctrLo (e : ErrCode) : (s.fail e).ctrLo = s.ctrLo := rfl
@[simp] theorem State.fail_ctrHi (e : ErrCode) : (s.fail e).ctrHi = s.ctrHi := rfl
@[simp] theorem State.fail_len (e : ErrCode) : (s.fail e).len = s.len := rfl
@[simp] theorem State.fail_err (e : ErrCode) : (s.fail e).err = e := rfl
@[simp] theorem State.fail_olen (e : ErrCode) : (s.fail e).olen = 0 := rfl
@[simp] theorem State.fail_blk (e : ErrCode) : (s.fail e).blk = s.blk := rfl
@[simp] theorem State.fail_inMem (e : ErrCode) : (s.fail e).inMem = s.inMem := rfl
@[simp] theorem State.fail_outMem (e : ErrCode) : (s.fail e).outMem = s.outMem := rfl
@[simp] theorem State.fail_x (e : ErrCode) : (s.fail e).x = s.x := rfl
@[simp] theorem State.fail_saved (e : ErrCode) : (s.fail e).saved = s.saved := rfl
@[simp] theorem State.fail_pos (e : ErrCode) : (s.fail e).pos = Pos.idle := rfl
@[simp] theorem State.fail_opc (e : ErrCode) : (s.fail e).opc = Config.freeOpc s.draws := rfl
@[simp] theorem State.fail_port (e : ErrCode) : (s.fail e).port = s.port := rfl
@[simp] theorem State.fail_rdata (e : ErrCode) : (s.fail e).rdata = s.rdata := rfl
@[simp] theorem State.fail_resetIn (e : ErrCode) : (s.fail e).resetIn = s.resetIn := rfl
@[simp] theorem State.fail_draws (e : ErrCode) : (s.fail e).draws = s.draws + 1 := rfl
@[simp] theorem State.fail_overflowMark (e : ErrCode) : (s.fail e).overflowMark = (s.overflowMark || e == .counterOverflow) :=
  rfl

/-! ### State.complete -/

@[simp] theorem State.complete_params (v : Word) : (s.complete v).params = s.params := rfl
@[simp] theorem State.complete_k (v : Word) : (s.complete v).k = s.k := rfl
@[simp] theorem State.complete_n (v : Word) : (s.complete v).n = s.n := rfl
@[simp] theorem State.complete_valid (v : Word) : (s.complete v).valid = s.valid := rfl
@[simp] theorem State.complete_keyin (v : Word) : (s.complete v).keyin = s.keyin := rfl
@[simp] theorem State.complete_klen (v : Word) : (s.complete v).klen = s.klen := rfl
@[simp] theorem State.complete_nonceLo (v : Word) : (s.complete v).nonceLo = s.nonceLo := rfl
@[simp] theorem State.complete_nonceHi (v : Word) : (s.complete v).nonceHi = s.nonceHi := rfl
@[simp] theorem State.complete_ctrLo (v : Word) : (s.complete v).ctrLo = s.ctrLo := rfl
@[simp] theorem State.complete_ctrHi (v : Word) : (s.complete v).ctrHi = s.ctrHi := rfl
@[simp] theorem State.complete_len (v : Word) : (s.complete v).len = s.len := rfl
@[simp] theorem State.complete_err (v : Word) : (s.complete v).err = .ok := rfl
@[simp] theorem State.complete_olen (v : Word) : (s.complete v).olen = v := rfl
@[simp] theorem State.complete_blk (v : Word) : (s.complete v).blk = s.blk := rfl
@[simp] theorem State.complete_inMem (v : Word) : (s.complete v).inMem = s.inMem := rfl
@[simp] theorem State.complete_outMem (v : Word) : (s.complete v).outMem = s.outMem := rfl
@[simp] theorem State.complete_x (v : Word) : (s.complete v).x = s.x := rfl
@[simp] theorem State.complete_saved (v : Word) : (s.complete v).saved = s.saved := rfl
@[simp] theorem State.complete_pos (v : Word) : (s.complete v).pos = Pos.idle := rfl
@[simp] theorem State.complete_opc (v : Word) : (s.complete v).opc = Config.freeOpc s.draws := rfl
@[simp] theorem State.complete_port (v : Word) : (s.complete v).port = s.port := rfl
@[simp] theorem State.complete_rdata (v : Word) : (s.complete v).rdata = s.rdata := rfl
@[simp] theorem State.complete_resetIn (v : Word) : (s.complete v).resetIn = s.resetIn := rfl
@[simp] theorem State.complete_draws (v : Word) : (s.complete v).draws = s.draws + 1 := rfl
@[simp] theorem State.complete_overflowMark (v : Word) : (s.complete v).overflowMark = s.overflowMark :=
  rfl

/-! ### State.completeBlocks -/

@[simp] theorem State.completeBlocks_params (v : Word) : (s.completeBlocks v).params = s.params :=
  rfl
@[simp] theorem State.completeBlocks_k (v : Word) : (s.completeBlocks v).k = s.k := rfl
@[simp] theorem State.completeBlocks_n (v : Word) : (s.completeBlocks v).n = s.n := rfl
@[simp] theorem State.completeBlocks_valid (v : Word) : (s.completeBlocks v).valid = s.valid := rfl
@[simp] theorem State.completeBlocks_keyin (v : Word) : (s.completeBlocks v).keyin = s.keyin := rfl
@[simp] theorem State.completeBlocks_klen (v : Word) : (s.completeBlocks v).klen = s.klen := rfl
@[simp] theorem State.completeBlocks_nonceLo (v : Word) : (s.completeBlocks v).nonceLo = s.nonceLo :=
  rfl
@[simp] theorem State.completeBlocks_nonceHi (v : Word) : (s.completeBlocks v).nonceHi = s.nonceHi :=
  rfl
@[simp] theorem State.completeBlocks_ctrLo (v : Word) : (s.completeBlocks v).ctrLo = s.ctrLo := rfl
@[simp] theorem State.completeBlocks_ctrHi (v : Word) : (s.completeBlocks v).ctrHi = s.ctrHi := rfl
@[simp] theorem State.completeBlocks_len (v : Word) : (s.completeBlocks v).len = s.len := rfl
@[simp] theorem State.completeBlocks_err (v : Word) : (s.completeBlocks v).err = .ok := rfl
@[simp] theorem State.completeBlocks_olen (v : Word) : (s.completeBlocks v).olen = v := rfl
@[simp] theorem State.completeBlocks_blk (v : Word) : (s.completeBlocks v).blk = s.blk := rfl
@[simp] theorem State.completeBlocks_inMem (v : Word) : (s.completeBlocks v).inMem = s.inMem := rfl
@[simp] theorem State.completeBlocks_outMem (v : Word) : (s.completeBlocks v).outMem = s.outMem :=
  rfl
@[simp] theorem State.completeBlocks_x (v : Word) : (s.completeBlocks v).x = Config.freeX s.draws :=
  rfl
@[simp] theorem State.completeBlocks_saved (v : Word) : (s.completeBlocks v).saved = Config.freeS s.draws :=
  rfl
@[simp] theorem State.completeBlocks_pos (v : Word) : (s.completeBlocks v).pos = Pos.idle := rfl
@[simp] theorem State.completeBlocks_opc (v : Word) : (s.completeBlocks v).opc = Config.freeOpc s.draws :=
  rfl
@[simp] theorem State.completeBlocks_port (v : Word) : (s.completeBlocks v).port = s.port := rfl
@[simp] theorem State.completeBlocks_rdata (v : Word) : (s.completeBlocks v).rdata = s.rdata := rfl
@[simp] theorem State.completeBlocks_resetIn (v : Word) : (s.completeBlocks v).resetIn = s.resetIn :=
  rfl
@[simp] theorem State.completeBlocks_draws (v : Word) : (s.completeBlocks v).draws = s.draws + 1 :=
  rfl
@[simp] theorem State.completeBlocks_overflowMark (v : Word) : (s.completeBlocks v).overflowMark = s.overflowMark :=
  rfl

/-! ### State.dispatch -/

@[simp] theorem State.dispatch_params (c : Command) : (s.dispatch c).params = s.params := rfl
@[simp] theorem State.dispatch_k (c : Command) : (s.dispatch c).k = s.k := rfl
@[simp] theorem State.dispatch_n (c : Command) : (s.dispatch c).n = s.n := rfl
@[simp] theorem State.dispatch_valid (c : Command) : (s.dispatch c).valid = s.valid := rfl
@[simp] theorem State.dispatch_keyin (c : Command) : (s.dispatch c).keyin = s.keyin := rfl
@[simp] theorem State.dispatch_klen (c : Command) : (s.dispatch c).klen = s.klen := rfl
@[simp] theorem State.dispatch_nonceLo (c : Command) : (s.dispatch c).nonceLo = s.nonceLo := rfl
@[simp] theorem State.dispatch_nonceHi (c : Command) : (s.dispatch c).nonceHi = s.nonceHi := rfl
@[simp] theorem State.dispatch_ctrLo (c : Command) : (s.dispatch c).ctrLo = s.ctrLo := rfl
@[simp] theorem State.dispatch_ctrHi (c : Command) : (s.dispatch c).ctrHi = s.ctrHi := rfl
@[simp] theorem State.dispatch_len (c : Command) : (s.dispatch c).len = s.len := rfl
@[simp] theorem State.dispatch_err (c : Command) : (s.dispatch c).err = s.err := rfl
@[simp] theorem State.dispatch_olen (c : Command) : (s.dispatch c).olen = s.olen := rfl
@[simp] theorem State.dispatch_blk (c : Command) : (s.dispatch c).blk = s.blk := rfl
@[simp] theorem State.dispatch_inMem (c : Command) : (s.dispatch c).inMem = s.inMem := rfl
@[simp] theorem State.dispatch_outMem (c : Command) : (s.dispatch c).outMem = s.outMem := rfl
@[simp] theorem State.dispatch_x (c : Command) : (s.dispatch c).x = s.x := rfl
@[simp] theorem State.dispatch_saved (c : Command) : (s.dispatch c).saved = s.saved := rfl
@[simp] theorem State.dispatch_pos (c : Command) : (s.dispatch c).pos = Pos.start := rfl
@[simp] theorem State.dispatch_opc (c : Command) : (s.dispatch c).opc = c.opcode := rfl
@[simp] theorem State.dispatch_port (c : Command) : (s.dispatch c).port = s.port := rfl
@[simp] theorem State.dispatch_rdata (c : Command) : (s.dispatch c).rdata = s.rdata := rfl
@[simp] theorem State.dispatch_resetIn (c : Command) : (s.dispatch c).resetIn = s.resetIn := rfl
@[simp] theorem State.dispatch_draws (c : Command) : (s.dispatch c).draws = s.draws := rfl
@[simp] theorem State.dispatch_overflowMark (c : Command) : (s.dispatch c).overflowMark = s.overflowMark :=
  rfl

/-! ### State.storeOut -/

@[simp] theorem State.storeOut_params (a : Nat) (bs : List Byte) : (s.storeOut a bs).params = s.params :=
  rfl
@[simp] theorem State.storeOut_k (a : Nat) (bs : List Byte) : (s.storeOut a bs).k = s.k := rfl
@[simp] theorem State.storeOut_n (a : Nat) (bs : List Byte) : (s.storeOut a bs).n = s.n := rfl
@[simp] theorem State.storeOut_valid (a : Nat) (bs : List Byte) : (s.storeOut a bs).valid = s.valid :=
  rfl
@[simp] theorem State.storeOut_keyin (a : Nat) (bs : List Byte) : (s.storeOut a bs).keyin = s.keyin :=
  rfl
@[simp] theorem State.storeOut_klen (a : Nat) (bs : List Byte) : (s.storeOut a bs).klen = s.klen :=
  rfl
@[simp] theorem State.storeOut_nonceLo (a : Nat) (bs : List Byte) : (s.storeOut a bs).nonceLo = s.nonceLo :=
  rfl
@[simp] theorem State.storeOut_nonceHi (a : Nat) (bs : List Byte) : (s.storeOut a bs).nonceHi = s.nonceHi :=
  rfl
@[simp] theorem State.storeOut_ctrLo (a : Nat) (bs : List Byte) : (s.storeOut a bs).ctrLo = s.ctrLo :=
  rfl
@[simp] theorem State.storeOut_ctrHi (a : Nat) (bs : List Byte) : (s.storeOut a bs).ctrHi = s.ctrHi :=
  rfl
@[simp] theorem State.storeOut_len (a : Nat) (bs : List Byte) : (s.storeOut a bs).len = s.len :=
  rfl
@[simp] theorem State.storeOut_err (a : Nat) (bs : List Byte) : (s.storeOut a bs).err = s.err :=
  rfl
@[simp] theorem State.storeOut_olen (a : Nat) (bs : List Byte) : (s.storeOut a bs).olen = s.olen :=
  rfl
@[simp] theorem State.storeOut_blk (a : Nat) (bs : List Byte) : (s.storeOut a bs).blk = s.blk :=
  rfl
@[simp] theorem State.storeOut_inMem (a : Nat) (bs : List Byte) : (s.storeOut a bs).inMem = s.inMem :=
  rfl
@[simp] theorem State.storeOut_outMem (a : Nat) (bs : List Byte) : (s.storeOut a bs).outMem = s.outMem.writeBytes a bs :=
  rfl
@[simp] theorem State.storeOut_x (a : Nat) (bs : List Byte) : (s.storeOut a bs).x = s.x := rfl
@[simp] theorem State.storeOut_saved (a : Nat) (bs : List Byte) : (s.storeOut a bs).saved = s.saved :=
  rfl
@[simp] theorem State.storeOut_pos (a : Nat) (bs : List Byte) : (s.storeOut a bs).pos = s.pos :=
  rfl
@[simp] theorem State.storeOut_opc (a : Nat) (bs : List Byte) : (s.storeOut a bs).opc = s.opc :=
  rfl
@[simp] theorem State.storeOut_port (a : Nat) (bs : List Byte) : (s.storeOut a bs).port = s.port :=
  rfl
@[simp] theorem State.storeOut_rdata (a : Nat) (bs : List Byte) : (s.storeOut a bs).rdata = s.rdata :=
  rfl
@[simp] theorem State.storeOut_resetIn (a : Nat) (bs : List Byte) : (s.storeOut a bs).resetIn = s.resetIn :=
  rfl
@[simp] theorem State.storeOut_draws (a : Nat) (bs : List Byte) : (s.storeOut a bs).draws = s.draws :=
  rfl
@[simp] theorem State.storeOut_overflowMark (a : Nat) (bs : List Byte) : (s.storeOut a bs).overflowMark = s.overflowMark :=
  rfl

/-! ### State.quarterRound -/

@[simp] theorem State.quarterRound_params (q : Fin 8) : (s.quarterRound q).params = s.params := rfl
@[simp] theorem State.quarterRound_k (q : Fin 8) : (s.quarterRound q).k = s.k := rfl
@[simp] theorem State.quarterRound_n (q : Fin 8) : (s.quarterRound q).n = s.n := rfl
@[simp] theorem State.quarterRound_valid (q : Fin 8) : (s.quarterRound q).valid = s.valid := rfl
@[simp] theorem State.quarterRound_keyin (q : Fin 8) : (s.quarterRound q).keyin = s.keyin := rfl
@[simp] theorem State.quarterRound_klen (q : Fin 8) : (s.quarterRound q).klen = s.klen := rfl
@[simp] theorem State.quarterRound_nonceLo (q : Fin 8) : (s.quarterRound q).nonceLo = s.nonceLo :=
  rfl
@[simp] theorem State.quarterRound_nonceHi (q : Fin 8) : (s.quarterRound q).nonceHi = s.nonceHi :=
  rfl
@[simp] theorem State.quarterRound_ctrLo (q : Fin 8) : (s.quarterRound q).ctrLo = s.ctrLo := rfl
@[simp] theorem State.quarterRound_ctrHi (q : Fin 8) : (s.quarterRound q).ctrHi = s.ctrHi := rfl
@[simp] theorem State.quarterRound_len (q : Fin 8) : (s.quarterRound q).len = s.len := rfl
@[simp] theorem State.quarterRound_err (q : Fin 8) : (s.quarterRound q).err = s.err := rfl
@[simp] theorem State.quarterRound_olen (q : Fin 8) : (s.quarterRound q).olen = s.olen := rfl
@[simp] theorem State.quarterRound_blk (q : Fin 8) : (s.quarterRound q).blk = s.blk := rfl
@[simp] theorem State.quarterRound_inMem (q : Fin 8) : (s.quarterRound q).inMem = s.inMem := rfl
@[simp] theorem State.quarterRound_outMem (q : Fin 8) : (s.quarterRound q).outMem = s.outMem := rfl
@[simp] theorem State.quarterRound_x (q : Fin 8) : (s.quarterRound q).x = qrs s.x sched[q] := rfl
@[simp] theorem State.quarterRound_saved (q : Fin 8) : (s.quarterRound q).saved = s.saved := rfl
@[simp] theorem State.quarterRound_pos (q : Fin 8) : (s.quarterRound q).pos = s.pos.afterQr q :=
  rfl
@[simp] theorem State.quarterRound_opc (q : Fin 8) : (s.quarterRound q).opc = s.opc := rfl
@[simp] theorem State.quarterRound_port (q : Fin 8) : (s.quarterRound q).port = s.port := rfl
@[simp] theorem State.quarterRound_rdata (q : Fin 8) : (s.quarterRound q).rdata = s.rdata := rfl
@[simp] theorem State.quarterRound_resetIn (q : Fin 8) : (s.quarterRound q).resetIn = s.resetIn :=
  rfl
@[simp] theorem State.quarterRound_draws (q : Fin 8) : (s.quarterRound q).draws = s.draws := rfl
@[simp] theorem State.quarterRound_overflowMark (q : Fin 8) : (s.quarterRound q).overflowMark = s.overflowMark :=
  rfl

/-! ### State.buildBlock -/

@[simp] theorem State.buildBlock_params : s.buildBlock.params = s.params := rfl
@[simp] theorem State.buildBlock_k : s.buildBlock.k = s.k := rfl
@[simp] theorem State.buildBlock_n : s.buildBlock.n = s.n := rfl
@[simp] theorem State.buildBlock_valid : s.buildBlock.valid = s.valid := rfl
@[simp] theorem State.buildBlock_keyin : s.buildBlock.keyin = s.keyin := rfl
@[simp] theorem State.buildBlock_klen : s.buildBlock.klen = s.klen := rfl
@[simp] theorem State.buildBlock_nonceLo : s.buildBlock.nonceLo = s.nonceLo := rfl
@[simp] theorem State.buildBlock_nonceHi : s.buildBlock.nonceHi = s.nonceHi := rfl
@[simp] theorem State.buildBlock_ctrLo : s.buildBlock.ctrLo = s.ctrLo := rfl
@[simp] theorem State.buildBlock_ctrHi : s.buildBlock.ctrHi = s.ctrHi := rfl
@[simp] theorem State.buildBlock_len : s.buildBlock.len = s.len := rfl
@[simp] theorem State.buildBlock_err : s.buildBlock.err = s.err := rfl
@[simp] theorem State.buildBlock_olen : s.buildBlock.olen = s.olen := rfl
@[simp] theorem State.buildBlock_blk : s.buildBlock.blk = s.blk := rfl
@[simp] theorem State.buildBlock_inMem : s.buildBlock.inMem = s.inMem := rfl
@[simp] theorem State.buildBlock_outMem : s.buildBlock.outMem = s.outMem := rfl
@[simp] theorem State.buildBlock_x : s.buildBlock.x = initState s.k s.n s.blockCounter := rfl
@[simp] theorem State.buildBlock_saved : s.buildBlock.saved = initState s.k s.n s.blockCounter :=
  rfl
@[simp] theorem State.buildBlock_pos : s.buildBlock.pos = s.pos.afterInit := rfl
@[simp] theorem State.buildBlock_opc : s.buildBlock.opc = s.opc := rfl
@[simp] theorem State.buildBlock_port : s.buildBlock.port = s.port := rfl
@[simp] theorem State.buildBlock_rdata : s.buildBlock.rdata = s.rdata := rfl
@[simp] theorem State.buildBlock_resetIn : s.buildBlock.resetIn = s.resetIn := rfl
@[simp] theorem State.buildBlock_draws : s.buildBlock.draws = s.draws := rfl
@[simp] theorem State.buildBlock_overflowMark : s.buildBlock.overflowMark = s.overflowMark := rfl

/-! ### State.addSaved -/

@[simp] theorem State.addSaved_params : s.addSaved.params = s.params := rfl
@[simp] theorem State.addSaved_k : s.addSaved.k = s.k := rfl
@[simp] theorem State.addSaved_n : s.addSaved.n = s.n := rfl
@[simp] theorem State.addSaved_valid : s.addSaved.valid = s.valid := rfl
@[simp] theorem State.addSaved_keyin : s.addSaved.keyin = s.keyin := rfl
@[simp] theorem State.addSaved_klen : s.addSaved.klen = s.klen := rfl
@[simp] theorem State.addSaved_nonceLo : s.addSaved.nonceLo = s.nonceLo := rfl
@[simp] theorem State.addSaved_nonceHi : s.addSaved.nonceHi = s.nonceHi := rfl
@[simp] theorem State.addSaved_ctrLo : s.addSaved.ctrLo = s.ctrLo := rfl
@[simp] theorem State.addSaved_ctrHi : s.addSaved.ctrHi = s.ctrHi := rfl
@[simp] theorem State.addSaved_len : s.addSaved.len = s.len := rfl
@[simp] theorem State.addSaved_err : s.addSaved.err = s.err := rfl
@[simp] theorem State.addSaved_olen : s.addSaved.olen = s.olen := rfl
@[simp] theorem State.addSaved_blk : s.addSaved.blk = s.blk := rfl
@[simp] theorem State.addSaved_inMem : s.addSaved.inMem = s.inMem := rfl
@[simp] theorem State.addSaved_outMem : s.addSaved.outMem = s.outMem := rfl
@[simp] theorem State.addSaved_x : s.addSaved.x = feedForward s.x s.saved := rfl
@[simp] theorem State.addSaved_saved : s.addSaved.saved = s.saved := rfl
@[simp] theorem State.addSaved_pos : s.addSaved.pos = s.pos.afterFinal := rfl
@[simp] theorem State.addSaved_opc : s.addSaved.opc = s.opc := rfl
@[simp] theorem State.addSaved_port : s.addSaved.port = s.port := rfl
@[simp] theorem State.addSaved_rdata : s.addSaved.rdata = s.rdata := rfl
@[simp] theorem State.addSaved_resetIn : s.addSaved.resetIn = s.resetIn := rfl
@[simp] theorem State.addSaved_draws : s.addSaved.draws = s.draws := rfl
@[simp] theorem State.addSaved_overflowMark : s.addSaved.overflowMark = s.overflowMark := rfl

/-! ### State.construct -/

@[simp] theorem State.construct_params : s.construct.params = s.params := rfl
@[simp] theorem State.construct_k : s.construct.k = s.keyin := rfl
@[simp] theorem State.construct_n : s.construct.n = #v[s.nonceLo, s.nonceHi] := rfl
@[simp] theorem State.construct_valid : s.construct.valid = true := rfl
@[simp] theorem State.construct_keyin : s.construct.keyin = s.keyin := rfl
@[simp] theorem State.construct_klen : s.construct.klen = s.klen := rfl
@[simp] theorem State.construct_nonceLo : s.construct.nonceLo = s.nonceLo := rfl
@[simp] theorem State.construct_nonceHi : s.construct.nonceHi = s.nonceHi := rfl
@[simp] theorem State.construct_ctrLo : s.construct.ctrLo = s.ctrLo := rfl
@[simp] theorem State.construct_ctrHi : s.construct.ctrHi = s.ctrHi := rfl
@[simp] theorem State.construct_len : s.construct.len = s.len := rfl
@[simp] theorem State.construct_err : s.construct.err = s.err := rfl
@[simp] theorem State.construct_olen : s.construct.olen = s.olen := rfl
@[simp] theorem State.construct_blk : s.construct.blk = s.blk := rfl
@[simp] theorem State.construct_inMem : s.construct.inMem = s.inMem := rfl
@[simp] theorem State.construct_outMem : s.construct.outMem = s.outMem := rfl
@[simp] theorem State.construct_x : s.construct.x = s.x := rfl
@[simp] theorem State.construct_saved : s.construct.saved = s.saved := rfl
@[simp] theorem State.construct_pos : s.construct.pos = s.pos := rfl
@[simp] theorem State.construct_opc : s.construct.opc = s.opc := rfl
@[simp] theorem State.construct_port : s.construct.port = s.port := rfl
@[simp] theorem State.construct_rdata : s.construct.rdata = s.rdata := rfl
@[simp] theorem State.construct_resetIn : s.construct.resetIn = s.resetIn := rfl
@[simp] theorem State.construct_draws : s.construct.draws = s.draws := rfl
@[simp] theorem State.construct_overflowMark : s.construct.overflowMark = s.overflowMark := rfl

/-! ### State.atLevel -/

@[simp] theorem State.atLevel_params (l : Level) : (s.atLevel l).params = { s.params with level := l } :=
  rfl
@[simp] theorem State.atLevel_k (l : Level) : (s.atLevel l).k = s.k := rfl
@[simp] theorem State.atLevel_n (l : Level) : (s.atLevel l).n = s.n := rfl
@[simp] theorem State.atLevel_valid (l : Level) : (s.atLevel l).valid = s.valid := rfl
@[simp] theorem State.atLevel_keyin (l : Level) : (s.atLevel l).keyin = s.keyin := rfl
@[simp] theorem State.atLevel_klen (l : Level) : (s.atLevel l).klen = s.klen := rfl
@[simp] theorem State.atLevel_nonceLo (l : Level) : (s.atLevel l).nonceLo = s.nonceLo := rfl
@[simp] theorem State.atLevel_nonceHi (l : Level) : (s.atLevel l).nonceHi = s.nonceHi := rfl
@[simp] theorem State.atLevel_ctrLo (l : Level) : (s.atLevel l).ctrLo = s.ctrLo := rfl
@[simp] theorem State.atLevel_ctrHi (l : Level) : (s.atLevel l).ctrHi = s.ctrHi := rfl
@[simp] theorem State.atLevel_len (l : Level) : (s.atLevel l).len = s.len := rfl
@[simp] theorem State.atLevel_err (l : Level) : (s.atLevel l).err = s.err := rfl
@[simp] theorem State.atLevel_olen (l : Level) : (s.atLevel l).olen = s.olen := rfl
@[simp] theorem State.atLevel_blk (l : Level) : (s.atLevel l).blk = s.blk := rfl
@[simp] theorem State.atLevel_inMem (l : Level) : (s.atLevel l).inMem = s.inMem := rfl
@[simp] theorem State.atLevel_outMem (l : Level) : (s.atLevel l).outMem = s.outMem := rfl
@[simp] theorem State.atLevel_x (l : Level) : (s.atLevel l).x = s.x := rfl
@[simp] theorem State.atLevel_saved (l : Level) : (s.atLevel l).saved = s.saved := rfl
@[simp] theorem State.atLevel_pos (l : Level) : (s.atLevel l).pos = s.pos := rfl
@[simp] theorem State.atLevel_opc (l : Level) : (s.atLevel l).opc = s.opc := rfl
@[simp] theorem State.atLevel_port (l : Level) : (s.atLevel l).port = s.port := rfl
@[simp] theorem State.atLevel_rdata (l : Level) : (s.atLevel l).rdata = s.rdata := rfl
@[simp] theorem State.atLevel_resetIn (l : Level) : (s.atLevel l).resetIn = s.resetIn := rfl
@[simp] theorem State.atLevel_draws (l : Level) : (s.atLevel l).draws = s.draws := rfl
@[simp] theorem State.atLevel_overflowMark (l : Level) : (s.atLevel l).overflowMark = s.overflowMark :=
  rfl

/-! ### State.storeBlock -/

@[simp] theorem State.storeBlock_params : s.storeBlock.params = s.params := by
  unfold State.storeBlock; split <;> rfl
@[simp] theorem State.storeBlock_k : s.storeBlock.k = s.k := by
  unfold State.storeBlock; split <;> rfl
@[simp] theorem State.storeBlock_n : s.storeBlock.n = s.n := by
  unfold State.storeBlock; split <;> rfl
@[simp] theorem State.storeBlock_valid : s.storeBlock.valid = s.valid := by
  unfold State.storeBlock; split <;> rfl
@[simp] theorem State.storeBlock_keyin : s.storeBlock.keyin = s.keyin := by
  unfold State.storeBlock; split <;> rfl
@[simp] theorem State.storeBlock_klen : s.storeBlock.klen = s.klen := by
  unfold State.storeBlock; split <;> rfl
@[simp] theorem State.storeBlock_nonceLo : s.storeBlock.nonceLo = s.nonceLo := by
  unfold State.storeBlock; split <;> rfl
@[simp] theorem State.storeBlock_nonceHi : s.storeBlock.nonceHi = s.nonceHi := by
  unfold State.storeBlock; split <;> rfl
@[simp] theorem State.storeBlock_ctrLo : s.storeBlock.ctrLo = s.ctrLo := by
  unfold State.storeBlock; split <;> rfl
@[simp] theorem State.storeBlock_ctrHi : s.storeBlock.ctrHi = s.ctrHi := by
  unfold State.storeBlock; split <;> rfl
@[simp] theorem State.storeBlock_len : s.storeBlock.len = s.len := by
  unfold State.storeBlock; split <;> rfl
@[simp] theorem State.storeBlock_err : s.storeBlock.err = s.err := by
  unfold State.storeBlock; split <;> rfl
@[simp] theorem State.storeBlock_olen : s.storeBlock.olen = s.olen := by
  unfold State.storeBlock; split <;> rfl
@[simp] theorem State.storeBlock_blk : s.storeBlock.blk = if s.opc = Command.block.opcode then s.x else s.blk := by
  unfold State.storeBlock; split <;> rfl
@[simp] theorem State.storeBlock_inMem : s.storeBlock.inMem = s.inMem := by
  unfold State.storeBlock; split <;> rfl
@[simp] theorem State.storeBlock_outMem : s.storeBlock.outMem = if s.opc = Command.block.opcode then s.outMem else s.outMem.writeBytes (64 * s.pos.bi) s.emitBytes := by
  unfold State.storeBlock; split <;> rfl
@[simp] theorem State.storeBlock_x : s.storeBlock.x = s.x := by
  unfold State.storeBlock; split <;> rfl
@[simp] theorem State.storeBlock_saved : s.storeBlock.saved = s.saved := by
  unfold State.storeBlock; split <;> rfl
@[simp] theorem State.storeBlock_pos : s.storeBlock.pos = s.pos := by
  unfold State.storeBlock; split <;> rfl
@[simp] theorem State.storeBlock_opc : s.storeBlock.opc = s.opc := by
  unfold State.storeBlock; split <;> rfl
@[simp] theorem State.storeBlock_port : s.storeBlock.port = s.port := by
  unfold State.storeBlock; split <;> rfl
@[simp] theorem State.storeBlock_rdata : s.storeBlock.rdata = s.rdata := by
  unfold State.storeBlock; split <;> rfl
@[simp] theorem State.storeBlock_resetIn : s.storeBlock.resetIn = s.resetIn := by
  unfold State.storeBlock; split <;> rfl
@[simp] theorem State.storeBlock_draws : s.storeBlock.draws = s.draws := by
  unfold State.storeBlock; split <;> rfl
@[simp] theorem State.storeBlock_overflowMark : s.storeBlock.overflowMark = s.overflowMark := by
  unfold State.storeBlock; split <;> rfl

/-! ### State.accept -/

@[simp] theorem State.accept_params : s.accept.params = s.params := by
  unfold State.accept; split <;> simp [*]
@[simp] theorem State.accept_k : s.accept.k = s.k := by
  unfold State.accept; split <;> simp [*]
@[simp] theorem State.accept_n : s.accept.n = s.n := by
  unfold State.accept; split <;> simp [*]
@[simp] theorem State.accept_valid : s.accept.valid = s.valid := by
  unfold State.accept; split <;> simp [*]
@[simp] theorem State.accept_keyin : s.accept.keyin = s.keyin := by
  unfold State.accept; split <;> simp [*]
@[simp] theorem State.accept_klen : s.accept.klen = s.klen := by
  unfold State.accept; split <;> simp [*]
@[simp] theorem State.accept_nonceLo : s.accept.nonceLo = s.nonceLo := by
  unfold State.accept; split <;> simp [*]
@[simp] theorem State.accept_nonceHi : s.accept.nonceHi = s.nonceHi := by
  unfold State.accept; split <;> simp [*]
@[simp] theorem State.accept_ctrLo : s.accept.ctrLo = s.ctrLo := by
  unfold State.accept; split <;> simp [*]
@[simp] theorem State.accept_ctrHi : s.accept.ctrHi = s.ctrHi := by
  unfold State.accept; split <;> simp [*]
@[simp] theorem State.accept_len : s.accept.len = s.len := by
  unfold State.accept; split <;> simp [*]
@[simp] theorem State.accept_err : s.accept.err = s.err := by
  unfold State.accept; split <;> simp [*]
@[simp] theorem State.accept_olen : s.accept.olen = s.olen := by
  unfold State.accept; split <;> simp [*]
@[simp] theorem State.accept_blk : s.accept.blk = s.blk := by
  unfold State.accept; split <;> simp [*]
@[simp] theorem State.accept_inMem : s.accept.inMem = s.inMem := by
  unfold State.accept; split <;> simp [*]
@[simp] theorem State.accept_outMem : s.accept.outMem = s.outMem := by
  unfold State.accept; split <;> simp [*]
@[simp] theorem State.accept_x : s.accept.x = s.x := by
  unfold State.accept; split <;> simp [*]
@[simp] theorem State.accept_saved : s.accept.saved = s.saved := by
  unfold State.accept; split <;> simp [*]
@[simp] theorem State.accept_pos : s.accept.pos = s.pos := by
  unfold State.accept; split <;> simp [*]
@[simp] theorem State.accept_opc : s.accept.opc = s.opc := by
  unfold State.accept; split <;> simp [*]
@[simp] theorem State.accept_port : s.accept.port = if s.pos.ph = .idle then s.port.tail else s.port := by
  unfold State.accept; split <;> simp [*]
@[simp] theorem State.accept_rdata : s.accept.rdata = s.rdata := by
  unfold State.accept; split <;> simp [*]
@[simp] theorem State.accept_resetIn : s.accept.resetIn = s.resetIn := by
  unfold State.accept; split <;> simp [*]
@[simp] theorem State.accept_draws : s.accept.draws = s.draws := by
  unfold State.accept; split <;> simp [*]
@[simp] theorem State.accept_overflowMark : s.accept.overflowMark = s.overflowMark := by
  unfold State.accept; split <;> simp [*]

/-! ### State.writeReg -/

@[simp] theorem State.writeReg_params (r : Reg) (v : Word) : (s.writeReg r v).params = s.params := by
  cases r <;> rfl
@[simp] theorem State.writeReg_k (r : Reg) (v : Word) : (s.writeReg r v).k = s.k := by
  cases r <;> rfl
@[simp] theorem State.writeReg_n (r : Reg) (v : Word) : (s.writeReg r v).n = s.n := by
  cases r <;> rfl
@[simp] theorem State.writeReg_valid (r : Reg) (v : Word) : (s.writeReg r v).valid = s.valid := by
  cases r <;> rfl
@[simp] theorem State.writeReg_err (r : Reg) (v : Word) : (s.writeReg r v).err = s.err := by
  cases r <;> rfl
@[simp] theorem State.writeReg_olen (r : Reg) (v : Word) : (s.writeReg r v).olen = s.olen := by
  cases r <;> rfl
@[simp] theorem State.writeReg_blk (r : Reg) (v : Word) : (s.writeReg r v).blk = s.blk := by
  cases r <;> rfl
@[simp] theorem State.writeReg_inMem (r : Reg) (v : Word) : (s.writeReg r v).inMem = s.inMem := by
  cases r <;> rfl
@[simp] theorem State.writeReg_outMem (r : Reg) (v : Word) : (s.writeReg r v).outMem = s.outMem := by
  cases r <;> rfl
@[simp] theorem State.writeReg_x (r : Reg) (v : Word) : (s.writeReg r v).x = s.x := by
  cases r <;> rfl
@[simp] theorem State.writeReg_saved (r : Reg) (v : Word) : (s.writeReg r v).saved = s.saved := by
  cases r <;> rfl
@[simp] theorem State.writeReg_pos (r : Reg) (v : Word) : (s.writeReg r v).pos = s.pos := by
  cases r <;> rfl
@[simp] theorem State.writeReg_opc (r : Reg) (v : Word) : (s.writeReg r v).opc = s.opc := by
  cases r <;> rfl
@[simp] theorem State.writeReg_port (r : Reg) (v : Word) : (s.writeReg r v).port = s.port := by
  cases r <;> rfl
@[simp] theorem State.writeReg_rdata (r : Reg) (v : Word) : (s.writeReg r v).rdata = s.rdata := by
  cases r <;> rfl
@[simp] theorem State.writeReg_resetIn (r : Reg) (v : Word) : (s.writeReg r v).resetIn = s.resetIn := by
  cases r <;> rfl
@[simp] theorem State.writeReg_draws (r : Reg) (v : Word) : (s.writeReg r v).draws = s.draws := by
  cases r <;> rfl
@[simp] theorem State.writeReg_overflowMark (r : Reg) (v : Word) : (s.writeReg r v).overflowMark = s.overflowMark := by
  cases r <;> rfl

/-! ### Assembled operands -/

@[simp] theorem State.answerWrite_ctr : s.answerWrite.ctr = s.ctr := rfl
@[simp] theorem State.answerWrite_nblk : s.answerWrite.nblk = s.nblk := rfl
@[simp] theorem State.answerRead_ctr (v : Word) : (s.answerRead v).ctr = s.ctr := rfl
@[simp] theorem State.answerRead_nblk (v : Word) : (s.answerRead v).nblk = s.nblk := rfl
@[simp] theorem State.unlatchOpc_ctr : s.unlatchOpc.ctr = s.ctr := rfl
@[simp] theorem State.unlatchOpc_nblk : s.unlatchOpc.nblk = s.nblk := rfl
@[simp] theorem State.dropWork_ctr : s.dropWork.ctr = s.ctr := rfl
@[simp] theorem State.dropWork_nblk : s.dropWork.nblk = s.nblk := rfl
@[simp] theorem State.raise_ctr (e : ErrCode) : (s.raise e).ctr = s.ctr := rfl
@[simp] theorem State.raise_nblk (e : ErrCode) : (s.raise e).nblk = s.nblk := rfl
@[simp] theorem State.fail_ctr (e : ErrCode) : (s.fail e).ctr = s.ctr := rfl
@[simp] theorem State.fail_nblk (e : ErrCode) : (s.fail e).nblk = s.nblk := rfl
@[simp] theorem State.complete_ctr (v : Word) : (s.complete v).ctr = s.ctr := rfl
@[simp] theorem State.complete_nblk (v : Word) : (s.complete v).nblk = s.nblk := rfl
@[simp] theorem State.completeBlocks_ctr (v : Word) : (s.completeBlocks v).ctr = s.ctr := rfl
@[simp] theorem State.completeBlocks_nblk (v : Word) : (s.completeBlocks v).nblk = s.nblk := rfl
@[simp] theorem State.dispatch_ctr (c : Command) : (s.dispatch c).ctr = s.ctr := rfl
@[simp] theorem State.dispatch_nblk (c : Command) : (s.dispatch c).nblk = s.nblk := rfl
@[simp] theorem State.storeOut_ctr (a : Nat) (bs : List Byte) : (s.storeOut a bs).ctr = s.ctr := rfl
@[simp] theorem State.storeOut_nblk (a : Nat) (bs : List Byte) : (s.storeOut a bs).nblk = s.nblk := rfl
@[simp] theorem State.quarterRound_ctr (q : Fin 8) : (s.quarterRound q).ctr = s.ctr := rfl
@[simp] theorem State.quarterRound_nblk (q : Fin 8) : (s.quarterRound q).nblk = s.nblk := rfl
@[simp] theorem State.buildBlock_ctr : s.buildBlock.ctr = s.ctr := rfl
@[simp] theorem State.buildBlock_nblk : s.buildBlock.nblk = s.nblk := rfl
@[simp] theorem State.addSaved_ctr : s.addSaved.ctr = s.ctr := rfl
@[simp] theorem State.addSaved_nblk : s.addSaved.nblk = s.nblk := rfl
@[simp] theorem State.construct_ctr : s.construct.ctr = s.ctr := rfl
@[simp] theorem State.construct_nblk : s.construct.nblk = s.nblk := rfl
@[simp] theorem State.atLevel_ctr (l : Level) : (s.atLevel l).ctr = s.ctr := rfl
@[simp] theorem State.atLevel_nblk (l : Level) : (s.atLevel l).nblk = s.nblk := rfl
@[simp] theorem State.storeBlock_ctr : s.storeBlock.ctr = s.ctr := by
  simp [State.ctr]
@[simp] theorem State.storeBlock_nblk : s.storeBlock.nblk = s.nblk := by
  simp [State.nblk]
@[simp] theorem State.accept_ctr : s.accept.ctr = s.ctr := by
  simp [State.ctr]
@[simp] theorem State.accept_nblk : s.accept.nblk = s.nblk := by
  simp [State.nblk]

end Sys2Proof.Machine
end

