-- ==== Sys2Proof/Laws/Ops.lean ====
section
/-! SUPPORT. What each shared operation can do, said once: the pre-checks by their conditions, a
command by its cases, the moves of the sequencer position by theirs, what the step fetches. -/

namespace Sys2Proof.Machine

variable {s t : State}

/-! ### Pre-checks (R177) -/

theorem State.precheckNew_ok (h : s.klen = 32) : s.precheckNew = none := if_neg (not_not.2 h)

theorem State.precheckNew_fail (h : s.klen ≠ 32) : s.precheckNew = some .invalidKeyLength :=
  if_pos h

theorem State.precheckBlock_ok (h : s.valid = true) : s.precheckBlock = none := by
  simp [State.precheckBlock, h]

theorem State.precheckBlock_fail (h : s.valid = false) :
    s.precheckBlock = some .notConfigured := if_pos h

theorem State.precheckData_ok (h : s.valid = true)
    (ho : counterOverflows s.len.toNat s.ctr = false) : s.precheckData = none := by
  simp [State.precheckData, h, ho]

theorem State.precheckData_fail (h : s.valid = false) :
    s.precheckData = some .notConfigured := if_pos h

theorem State.precheckData_overflow (h : s.valid = true)
    (ho : counterOverflows s.len.toNat s.ctr = true) :
    s.precheckData = some .counterOverflow := by
  simp [State.precheckData, h, ho]

/-- The data pre-check by its three cases. -/
theorem State.precheckData_cases (s : State) :
    (s.valid = false ∧ s.precheckData = some .notConfigured) ∨
    (s.valid = true ∧ counterOverflows s.len.toNat s.ctr = true ∧
      s.precheckData = some .counterOverflow) ∨
    (s.valid = true ∧ counterOverflows s.len.toNat s.ctr = false ∧ s.precheckData = none) := by
  cases hv : s.valid with
  | false => exact .inl ⟨rfl, State.precheckData_fail hv⟩
  | true =>
    cases ho : counterOverflows s.len.toNat s.ctr with
    | true => exact .inr (.inl ⟨rfl, rfl, State.precheckData_overflow hv ho⟩)
    | false => exact .inr (.inr ⟨rfl, rfl, State.precheckData_ok hv ho⟩)

/-! ### Commands -/

theorem execNew_ok (h : s.klen = 32) : execNew s = .next (s.construct.complete 0) := by
  simp only [execNew, State.precheckNew_ok h]

theorem execNew_fail (h : s.klen ≠ 32) : execNew s = .next (s.fail .invalidKeyLength) := by
  simp only [execNew, State.precheckNew_fail h]

theorem execBlock_fail (h : s.valid = false) : execBlock s = .next (s.fail .notConfigured) := by
  simp only [execBlock, State.precheckBlock_fail h]

theorem execBlock_functional (h : s.valid = true) (hl : s.params.level = .functional) :
    execBlock s = .next ({ s with blk := block s.k s.n s.ctr }.completeBlocks 0) := by
  simp only [execBlock, State.precheckBlock_ok h, hl]

theorem execBlock_sequenced (h : s.valid = true) (hl : s.params.level = .sequenced) :
    execBlock s = .next (s.dispatch .block) := by
  simp only [execBlock, State.precheckBlock_ok h, hl]

theorem State.dataCommand_fail (c : Command) (out : List Byte) {e : ErrCode}
    (h : s.precheckData = some e) : s.dataCommand c out = s.fail e := by
  simp only [State.dataCommand, h]

theorem State.dataCommand_empty (c : Command) (out : List Byte) (h : s.precheckData = none)
    (h0 : s.nblk = 0) : s.dataCommand c out = s.complete s.len := by
  simp only [State.dataCommand, h, h0, if_true]

theorem State.dataCommand_functional (c : Command) (out : List Byte) (h : s.precheckData = none)
    (h0 : s.nblk ≠ 0) (hl : s.params.level = .functional) :
    s.dataCommand c out = (s.storeOut 0 out).completeBlocks s.len := by
  simp only [State.dataCommand, h, if_neg h0, hl]

theorem State.dataCommand_sequenced (c : Command) (out : List Byte) (h : s.precheckData = none)
    (h0 : s.nblk ≠ 0) (hl : s.params.level = .sequenced) :
    s.dataCommand c out = s.dispatch c := by
  simp only [State.dataCommand, h, if_neg h0, hl]

/-- Everything a data command can do. -/
theorem State.dataCommand_cases (s : State) (c : Command) (out : List Byte) :
    (∃ e, s.precheckData = some e ∧ s.dataCommand c out = s.fail e) ∨
    (s.precheckData = none ∧ s.nblk = 0 ∧ s.dataCommand c out = s.complete s.len) ∨
    (s.precheckData = none ∧ s.nblk ≠ 0 ∧ s.params.level = .functional ∧
      s.dataCommand c out = (s.storeOut 0 out).completeBlocks s.len) ∨
    (s.precheckData = none ∧ s.nblk ≠ 0 ∧ s.params.level = .sequenced ∧
      s.dataCommand c out = s.dispatch c) := by
  cases h : s.precheckData with
  | some e => exact .inl ⟨e, rfl, State.dataCommand_fail c out h⟩
  | none =>
    by_cases h0 : s.nblk = 0
    · exact .inr (.inl ⟨rfl, h0, State.dataCommand_empty c out h h0⟩)
    · cases hl : s.params.level with
      | functional =>
        exact .inr (.inr (.inl ⟨rfl, h0, rfl, State.dataCommand_functional c out h h0 hl⟩))
      | sequenced =>
        exact .inr (.inr (.inr ⟨rfl, h0, rfl, State.dataCommand_sequenced c out h h0 hl⟩))

/-- Every command answers a next state. -/
theorem exec_command_next (c : Command) (s : State) : ∃ t, exec c.instr s = .next t := by
  cases c <;> exact ⟨_, rfl⟩

@[simp] theorem State.nblk_eq_zero : s.nblk = 0 ↔ s.len.toNat = 0 := by
  simp only [State.nblk, Machine.nblk]
  omega

@[simp] theorem State.keystreamOut_length (s : State) : s.keystreamOut.length = s.len.toNat :=
  keystreamBytes_length _ _ _ _

@[simp] theorem State.processOut_length (s : State) : s.processOut.length = s.len.toNat := by
  simp [State.processOut]

/-! ### Host transactions -/

theorem execWr_cmd (v : Word) (s : State) : execWr .cmd v s = startCommand v s.answerWrite :=
  if_pos rfl

theorem execWr_reg {r : Reg} (h : r ≠ .cmd) (v : Word) (s : State) :
    execWr r v s = .next (s.answerWrite.writeReg r v) := if_neg h

theorem startCommand_legal {w : Word} {c : Command} (h : decodeCommand w = some c) (s : State) :
    startCommand w s = exec c.instr s := by
  cases c <;> simp only [startCommand, h] <;> rfl

theorem startCommand_illegal {w : Word} (h : decodeCommand w = none) (s : State) :
    startCommand w s = .next (s.raise .illegalCommand) := by
  simp only [startCommand, h]

theorem addrInRange_iff (lenW : Nat) (a : Word) : addrInRange lenW a = true ↔ a.toNat < 2 ^ lenW := by
  simp [addrInRange]

/-! ### The sequencer position (R184) -/

theorem Pos.afterQr_lt (p : Pos) (q : Fin 8) (h : q.val < 7) :
    p.afterQr q = { ph := .round, bi := p.bi, dr := p.dr, qi := ⟨q.val + 1, by omega⟩ } := dif_pos h

theorem Pos.afterQr_again (p : Pos) (q : Fin 8) (h : q.val = 7) (hd : p.dr.val < 9) :
    p.afterQr q = { ph := .round, bi := p.bi, dr := ⟨p.dr.val + 1, by omega⟩, qi := 0 } := by
  rw [Pos.afterQr, dif_neg (by omega), dif_pos hd]

theorem Pos.afterQr_done (p : Pos) (q : Fin 8) (h : q.val = 7) (hd : p.dr.val = 9) :
    p.afterQr q = { ph := .final, bi := p.bi, dr := 0, qi := 0 } := by
  rw [Pos.afterQr, dif_neg (by omega), dif_neg (by omega)]

@[simp] theorem Pos.afterQr_bi (p : Pos) (q : Fin 8) : (p.afterQr q).bi = p.bi := by
  unfold Pos.afterQr
  split
  · rfl
  · split <;> rfl

/-- One more quarter round of the schedule. -/
theorem quarterRounds_succ (x : Vector Word 16) (q : Fin 8) :
    quarterRounds (q.val + 1) x = qrs (quarterRounds q.val x) sched[q] := by
  fin_cases q <;> rfl

/-- All eight are the double round (R118). -/
theorem quarterRounds_eight (x : Vector Word 16) : quarterRounds 8 x = doubleRound x := rfl

/-! ### The step -/

theorem step_reset {d : ResetDraw} (h : s.resetIn = some d) : step s = .next (s.applyReset d) := by
  simp only [step, h]

/-- The quarter-round micro-operation the position selects at `ROUND`. -/
theorem step_round (h : s.resetIn = none) (hp : s.pos.ph = .round) :
    step s = .next (s.quarterRound s.pos.qi) := by
  have ha : s.accept = s := by simp only [State.accept, hp]
  have hf : s.fetch = some (.sched16, sched[s.pos.qi].word) := by simp only [State.fetch, hp]
  have hx : ∀ q : Fin 8, ∃ i, decode .sched16 sched[q].word = .ok i ∧
      exec i s = .next (s.quarterRound q) := by
    intro q
    fin_cases q <;> exact ⟨_, rfl, rfl⟩
  obtain ⟨i, hd, he⟩ := hx s.pos.qi
  simp only [step, h, hf, ha, hd, he]

theorem step_init (h : s.resetIn = none) (hp : s.pos.ph = .init) : step s = execUInit s := by
  have ha : s.accept = s := by simp only [State.accept, hp]
  have hf : s.fetch = some (.seq, 1) := by simp only [State.fetch, hp, Phase.number]
  simp only [step, h, hf, ha]
  rfl

theorem step_final (h : s.resetIn = none) (hp : s.pos.ph = .final) : step s = .next s.addSaved := by
  have ha : s.accept = s := by simp only [State.accept, hp]
  have hf : s.fetch = some (.seq, 3) := by simp only [State.fetch, hp, Phase.number]
  simp only [step, h, hf, ha]
  rfl

theorem step_emit (h : s.resetIn = none) (hp : s.pos.ph = .emit) : step s = execUEmit s := by
  have ha : s.accept = s := by simp only [State.accept, hp]
  have hf : s.fetch = some (.seq, 4) := by simp only [State.fetch, hp, Phase.number]
  simp only [step, h, hf, ha]
  rfl

/-- A run of the machine is a step and a run. -/
theorem core_run_next {u : State} (h : step s = .next u) (k : Nat) :
    Host.Core.run Sys2Proof.core (k + 1) s = Host.Core.run Sys2Proof.core k u := by
  have hm : ∀ (M : Host.Core) (a b : M.State), M.step a = .next b → M.run (k + 1) a = M.run k b := by
    intro M a b hab
    rw [Host.Core.run, hab]
  exact hm Sys2Proof.core s u h

end Sys2Proof.Machine
end

