-- ==== Sys2Proof/Laws/PerInstr.lean ====
section
/-! SUPPORT. One statement about every instruction as syntax: the word the encoder writes is a word of
the instruction's row of the opcode table. -/

namespace Sys2Proof.Laws

/-- Masking a `HOST` word masks its fields. -/
theorem hostWord_and (sel sel' : BitVec 2) (we we' : Bool) (addr addr' wdata wdata' : Word) :
    hostWord sel we addr wdata &&& hostWord sel' we' addr' wdata' =
      hostWord (sel &&& sel') (we && we') (addr &&& addr') (wdata &&& wdata') := by
  apply BitVec.eq_of_getLsbD_eq
  intro i _
  simp only [BitVec.getLsbD_and, hostWord_getLsbD]
  split
  · rfl
  · split
    · rfl
    · split <;> rfl

/-- The mask of the `REG` rows, by fields: `sel`, `we` and `addr[31:6]`. -/
theorem host_reg_mask : 0x7FFFFFFC000000000 = (hostWord 3 true 0xFFFFFFC0 0).toNat := by decide

/-- The mask of the `IN` and `OUT` rows, by fields: `sel` and `we`. -/
theorem host_mem_mask : 0x70000000000000000 = (hostWord 3 true 0 0).toNat := by decide

/-- A register number has no bit of `addr[31:6]`. -/
theorem number_masked (r : Reg) : BitVec.ofNat 32 r.number &&& 0xFFFFFFC0 = 0 := by
  cases r with
  | keyin j => fin_cases j <;> decide
  | blk j => fin_cases j <;> decide
  | _ => decide

/-- A word under an empty mask. -/
theorem masked_zero (v : Word) : v &&& 0 = 0 := BitVec.and_zero

namespace RowMatch

/-- The row is in the instruction's format, and the encoder's word is one of the row's. -/
def Statement (i : Instr) : Prop :=
  i.row.format = i.format ∧ i.row.accepts (encode i) = true

theorem rd (r : Reg) : Statement (.rd r) := by
  refine ⟨rfl, ?_⟩
  rw [Row.accepts, Instr.row, encode, host_reg_mask, ← BitVec.toNat_and, hostWord_and, number_masked]
  decide

theorem wr (r : Reg) (v : Word) : Statement (.wr r v) := by
  refine ⟨rfl, ?_⟩
  rw [Row.accepts, Instr.row, encode, host_reg_mask, ← BitVec.toNat_and, hostWord_and, number_masked,
    masked_zero]
  decide

theorem win (a : Word) (b : Byte) : Statement (.win a b) := by
  refine ⟨rfl, ?_⟩
  rw [Row.accepts, Instr.row, encode, host_mem_mask, ← BitVec.toNat_and, hostWord_and,
    masked_zero, masked_zero]
  decide

theorem rout (a : Word) : Statement (.rout a) := by
  refine ⟨rfl, ?_⟩
  rw [Row.accepts, Instr.row, encode, host_mem_mask, ← BitVec.toNat_and, hostWord_and,
    masked_zero]
  decide

theorem new : Statement .new := ⟨rfl, rfl⟩

theorem block : Statement .block := ⟨rfl, rfl⟩

theorem keystream : Statement .keystream := ⟨rfl, rfl⟩

theorem encrypt : Statement .encrypt := ⟨rfl, rfl⟩

theorem decrypt : Statement .decrypt := ⟨rfl, rfl⟩

theorem uQr0 : Statement .uQr0 := ⟨rfl, rfl⟩

theorem uQr1 : Statement .uQr1 := ⟨rfl, rfl⟩

theorem uQr2 : Statement .uQr2 := ⟨rfl, rfl⟩

theorem uQr3 : Statement .uQr3 := ⟨rfl, rfl⟩

theorem uQr4 : Statement .uQr4 := ⟨rfl, rfl⟩

theorem uQr5 : Statement .uQr5 := ⟨rfl, rfl⟩

theorem uQr6 : Statement .uQr6 := ⟨rfl, rfl⟩

theorem uQr7 : Statement .uQr7 := ⟨rfl, rfl⟩

theorem uInit : Statement .uInit := ⟨rfl, rfl⟩

theorem uFinal : Statement .uFinal := ⟨rfl, rfl⟩

theorem uEmit : Statement .uEmit := ⟨rfl, rfl⟩

end RowMatch

end Sys2Proof.Laws
end

