-- ==== Sys2Proof/Tests/Slice0.lean ====
section
/-! SUPPORT. The package's own tests: the checks of WellFormed, decoding of words written out from the
spec's encodings, worked examples of spec/95_test_vectors.md (the id is named at each test),
and for every obligation with hypotheses a witness that meets them. -/

namespace Sys2Proof.Tests

open Sys2Proof.Machine

/-! ### Helper states -/

/-- The state a meaning answers satisfies `p`. -/
def answers (o : Outcome) (p : State → Bool) : Bool :=
  match o with
  | .next t => p t
  | .fault _ => false
  | .refused _ => false

/-- A meaning refuses under this name. -/
def refuses (o : Outcome) (r : Refusal) : Bool :=
  match o with
  | .next _ => false
  | .fault _ => false
  | .refused r' => r' == r

/-- A byte space that holds `bs` from address 0. -/
def bytesAt0 (bs : List Byte) : Memory := Memory.writeBytes [] 0 bs

/-- "inst" of the spec's section 2.9: reset, then a successful `NEW` with the zero key and nonce. -/
def inst : State :=
  { State.reset with
    keyin := Vector.replicate 8 0, klen := 32, nonceLo := 0, nonceHi := 0
    k := Vector.replicate 8 0, n := Vector.replicate 2 0, valid := true }

/-- The same core with the sequencer as the description of a command. -/
def seqInst : State := inst.atLevel .sequenced

/-- The same core with `LEN_W` = 16. -/
def inst16 : State := { inst with params := { lenW := 16, level := .functional } }

/-- A command `opc` in progress at a position. -/
def running (opc : BitVec 4) (ph : Phase) (bi : Nat) (dr : Fin 10) (qi : Fin 8) : State :=
  { seqInst with opc := opc, len := 65, pos := { ph := ph, bi := bi, dr := dr, qi := qi } }

/-- key 00..1f. -/
def key : Vector Word 8 :=
  #v[0x03020100, 0x07060504, 0x0b0a0908, 0x0f0e0d0c, 0x13121110, 0x17161514, 0x1b1a1918, 0x1f1e1d1c]

/-- The words each step of T-DR1 writes. -/
def dr1Writes : List (List (Fin 16 × Word)) :=
  [[(0, 0xb7877feb), (4, 0x4a7d5c86), (8, 0x5a83fd3f), (12, 0xe21e9bcf)],
    [(1, 0x16526ab4), (5, 0xfae0ea21), (9, 0xa0c7c792), (13, 0x3c599472)],
    [(2, 0xa0f85005), (6, 0x66e11e68), (10, 0xf75be0ef), (14, 0xca29678d)],
    [(3, 0xb1d26bcb), (7, 0xe3a851a6), (11, 0x0b7556f4), (15, 0xa600ebd4)],
    [(0, 0xe45fd249), (5, 0x86bf4098), (10, 0x00fa16bc), (15, 0x87c62165)],
    [(1, 0x1bb820a6), (6, 0x460b500a), (11, 0x8a08812a), (12, 0x6bbf8b09)],
    [(2, 0xe31a88ea), (7, 0xfa169886), (8, 0x538dca0e), (13, 0xc33013d6)],
    [(3, 0xe667a9fe), (4, 0x2a3bf673), (9, 0x0c439641), (14, 0xbb9f9849)]]

/-- `X` after the first `q` steps of T-DR1. -/
def dr1 (q : Nat) : Vector Word 16 :=
  (dr1Writes.take q).flatten.foldl (fun x w => x.set w.1 w.2)
    #v[0x61707865, 0x3320646e, 0x79622d32, 0x6b206574, 0, 0, 0, 0, 0, 0, 0, 0, 0, 0, 0, 0]

/-- A state about to run step `q` of T-DR1. -/
def beforeDr1 (q : Fin 8) : State := { running 3 .round 0 0 q with x := dr1 q.val }

/-! ### WellFormed -/

/-- T-X9m: an address at 2^16 is ill formed for `LEN_W` = 16 and well formed for 32. -/
theorem test_wellFormed_win : (Instr.win 0x10000 0).wellFormed 16 = false ∧
    (Instr.win 0xffff 0).wellFormed 16 = true ∧ (Instr.win 0x10000 0).wellFormed 32 = true := by
  decide

theorem test_wellFormed_rout : (Instr.rout 0x10000).wellFormed 16 = false ∧
    (Instr.rout 0xffff).wellFormed 16 = true ∧ (Instr.rout 0xffffffff).wellFormed 32 = true := by
  decide

/-! ### Decoding (programs P1 to P6, rules R84, R94, R95) -/

/-- P3 line 28, P6 line 4. -/
theorem test_decode_rd : decodeTableWord 67 0x00000002100000000 = some (.rd (.blk 1)) ∧
    decodeTableWord 67 0x00000000100000000 = some (.rd .status) := by decide

/-- P4 lines 4 and 13. -/
theorem test_decode_wr :
    decodeTableWord 67 0x1000000130f0e0d0c = some (.wr (.keyin 3) 0x0f0e0d0c) ∧
    decodeTableWord 67 0x100000006ffffffff = some (.wr .ctrLo 0xffffffff) := by decide

/-- P5 line 19, and T-H8: `wdata[31:8]` is ignored. -/
theorem test_decode_win : decodeTableWord 67 0x30000000200000043 = some (.win 2 0x43) ∧
    decodeTableWord 67 0x300000000000001ff = some (.win 0 0xff) := by decide

/-- P5 line 24. -/
theorem test_decode_rout : decodeTableWord 67 0x40000004000000000 = some (.rout 64) := by decide

theorem test_decode_commands : decodeTableWord 32 1 = some .new ∧ decodeTableWord 32 2 = some .block ∧
    decodeTableWord 32 3 = some .keystream ∧ decodeTableWord 32 4 = some .encrypt ∧
    decodeTableWord 32 5 = some .decrypt := by decide

/-- Example E3. -/
theorem test_decode_schedule : decodeTableWord 16 0x048C = some .uQr0 ∧
    decodeTableWord 16 0x159D = some .uQr1 ∧ decodeTableWord 16 0x26AE = some .uQr2 ∧
    decodeTableWord 16 0x37BF = some .uQr3 ∧ decodeTableWord 16 0x05AF = some .uQr4 ∧
    decodeTableWord 16 0x16BC = some .uQr5 ∧ decodeTableWord 16 0x278D = some .uQr6 ∧
    decodeTableWord 16 0x349E = some .uQr7 := by decide

theorem test_decode_sequencer : decodeTableWord 3 1 = some .uInit ∧
    decodeTableWord 3 3 = some .uFinal ∧ decodeTableWord 3 4 = some .uEmit ∧
    decodeTableWord 3 0 = none ∧ decodeTableWord 3 2 = none ∧ decodeTableWord 3 7 = none := by decide

/-- T-X9a to T-X9h: reserved register numbers and `addr[31:6] != 0`. -/
theorem test_decode_reserved_registers :
    ([(false, 0xa), (true, 0xf), (false, 0x18), (true, 0x1f), (false, 0x30), (false, 0x3f),
      (false, 0x40), (true, 0x100)] : List (Bool × Word)).all (fun c =>
        decodeHost (hostWord 0 c.1 c.2 0) matches .error .reservedRegister) = true := by decide

/-- T-X9i to T-X9l: reserved `sel`, `we` combinations. -/
theorem test_decode_reserved_transactions :
    ([(1, false), (2, true), (3, false), (3, true)] : List (BitVec 2 × Bool)).all (fun c =>
      decodeHost (hostWord c.1 c.2 0 0) matches .error .reservedTransaction) = true := by decide

/-- T-X6: illegal command words. -/
theorem test_decode_illegal_commands :
    ([0, 6, 0xf, 0x10, 0x11, 0x13, 0x80000003, 0xffffffff] : List Word).all (fun w =>
      decodeCommand w == none) = true := by decide

/-! ### Host transactions -/

/-- P6 line 4: `STATUS` after an illegal word on an instance. -/
theorem test_rd_status : answers (exec (.rd .status) { inst with err := .illegalCommand })
    (fun t => t.rdata == 0x00000003) = true := by decide

/-- T-H2: a write-only register reads 0. -/
theorem test_rd_keyin : answers (exec (.rd (.keyin 0)) { inst with keyin := key })
    (fun t => t.rdata == 0) = true := by decide

/-- T-H7 with `LEN_W` = 16. -/
theorem test_wr_len : answers (exec (.wr .len 0xffffffff) inst16) (fun t => t.len == 0x0000ffff) =
    true := by decide

/-- P6 line 5: `opc` = 3 but bit 4 set. -/
theorem test_wr_illegal_command : answers (exec (.wr .cmd 0x00000013) { inst with olen := 5 })
    (fun t => t.err == .illegalCommand && t.olen == 0 && t.valid) = true := by decide

/-- T-H8. -/
theorem test_win : answers (exec (.win 0 0xff) inst)
    (fun t => t.inMem.read 0 == 0xff && t.inMem.wf) = true := by decide

/-- T-X9m. -/
theorem test_win_out_of_range : refuses (exec (.win 0x10000 0) inst16) .addressOutOfRange = true := by
  decide

/-- T-H9 and T-X9n: the byte zero extended; the last byte of `OUT`. -/
theorem test_rout : answers (exec (.rout 4) { inst with outMem := bytesAt0 [0x76, 0xb8, 0xe0, 0xad, 0xa0] })
    (fun t => t.rdata == 0x000000a0) = true ∧
    answers (exec (.rout 0xffffffff) inst) (fun _ => true) = true := by decide

/-! ### Commands -/

/-- T-X2g. -/
theorem test_new : answers (exec .new { State.reset with klen := 32, keyin := key, nonceLo := 1, nonceHi := 2 })
    (fun t => t.k == key && t.n == #v[1, 2] && t.valid && t.err == .ok && t.olen == 0) = true := by
  decide

/-- T-X2c: the old instance is gone. -/
theorem test_new_wrong_length : answers (exec .new { inst with klen := 31, olen := 5 })
    (fun t => t.err == .invalidKeyLength && !t.valid && t.olen == 0 && t.k == inst.k) = true := by
  decide

set_option maxRecDepth 100000 in
/-- T-B2. -/
theorem test_block : answers (exec .block { inst with ctrLo := 1 })
    (fun t => t.blk == #v[0xbee7079f, 0x7a385155, 0x7c97ba98, 0x0d082d73, 0xa0290fcb, 0x6965e348,
      0x3e53c612, 0xed7aee32, 0x7621b729, 0x434ee69c, 0xb03371d5, 0xd539d874, 0x281fed31, 0x45fb0a51,
      0x1f0ae1ac, 0x6f4d794b]) = true := by decide

set_option maxRecDepth 100000 in
/-- T-B7: every operand bit set, at the top counter (T-X5i). -/
theorem test_block_top : answers (exec .block { inst with
      k := Vector.replicate 8 0xffffffff, n := Vector.replicate 2 0xffffffff
      ctrLo := 0xffffffff, ctrHi := 0xffffffff })
    (fun t => t.blk[0] == 0xcf212bd7 && t.blk[4] == 0xbc634f6a && t.blk[13] == 0x71f385e9 &&
      t.err == .ok) = true := by decide

set_option maxRecDepth 100000 in
/-- T-K3, and no byte beyond. -/
theorem test_keystream : answers (exec .keystream { inst with len := 5 })
    (fun t => t.outMem.readBytes 0 6 == [0x76, 0xb8, 0xe0, 0xad, 0xa0, Memory.fill] &&
      t.olen == 5) = true := by decide

/-- T-X5f: needs counter 2^64. -/
theorem test_keystream_overflow : answers (exec .keystream
      { inst with ctrLo := 0xfffffffe, ctrHi := 0xffffffff, len := 129 })
    (fun t => t.err == .counterOverflow && t.olen == 0 && t.valid && t.outMem == []) = true := by decide

set_option maxRecDepth 100000 in
/-- T-E1. -/
theorem test_encrypt : answers (exec .encrypt
      { inst with len := 5, inMem := bytesAt0 [0x68, 0x65, 0x6c, 0x6c, 0x6f] })
    (fun t => t.outMem.readBytes 0 5 == [0x1e, 0xdd, 0x8c, 0xc1, 0xcf]) = true := by decide

set_option maxRecDepth 100000 in
/-- T-E4: another counter does not round-trip. -/
theorem test_decrypt : answers (exec .decrypt
      { inst with len := 5, ctrLo := 1, inMem := bytesAt0 [0x1e, 0xdd, 0x8c, 0xc1, 0xcf] })
    (fun t => t.outMem.readBytes 0 5 == [0x81, 0xda, 0x6b, 0x7f, 0x9a]) = true := by decide

/-! ### Micro-operations (T-DR1, T-Q2, T-B1, T-B6, T-M1) -/

theorem test_uQr0 : answers (exec .uQr0 (beforeDr1 0))
    (fun t => t.x == dr1 1 && t.pos == ⟨.round, 0, 0, 1⟩) = true := by decide

theorem test_uQr1 : answers (exec .uQr1 (beforeDr1 1)) (fun t => t.x == dr1 2) = true := by decide

theorem test_uQr2 : answers (exec .uQr2 (beforeDr1 2)) (fun t => t.x == dr1 3) = true := by decide

theorem test_uQr3 : answers (exec .uQr3 (beforeDr1 3)) (fun t => t.x == dr1 4) = true := by decide

theorem test_uQr4 : answers (exec .uQr4 (beforeDr1 4)) (fun t => t.x == dr1 5) = true := by decide

theorem test_uQr5 : answers (exec .uQr5 (beforeDr1 5)) (fun t => t.x == dr1 6) = true := by decide

theorem test_uQr6 : answers (exec .uQr6 (beforeDr1 6)) (fun t => t.x == dr1 7) = true := by decide

/-- T-Q2. -/
theorem test_uQr6_array : answers (exec .uQr6 { running 3 .round 0 0 6 with
      x := #v[0x879531e0, 0xc5ecf37d, 0x516461b1, 0xc9a62f8a, 0x44c20ef3, 0x3390af7f, 0xd9fc690b,
        0x2a5f714c, 0x53372767, 0xb00a5631, 0x974c541a, 0x359e9963, 0x5c971061, 0x3d631689, 0x2098d9d6,
        0x91dbd320] })
    (fun t => t.x == #v[0x879531e0, 0xc5ecf37d, 0xbdb886dc, 0xc9a62f8a, 0x44c20ef3, 0x3390af7f,
      0xd9fc690b, 0xcfacafd2, 0xe46bea80, 0xb00a5631, 0x974c541a, 0x359e9963, 0x5c971061, 0xccc07c79,
      0x2098d9d6, 0x91dbd320]) = true := by decide

/-- T-DR1, position `(ROUND, 0, 1, 0)`. -/
theorem test_uQr7 : answers (exec .uQr7 (beforeDr1 7))
    (fun t => t.x == dr1 8 && t.pos == ⟨.round, 0, 1, 0⟩) = true := by decide

/-- T-M1 line 82: after the last quarter round of the tenth double round. -/
theorem test_uQr7_last : answers (exec .uQr7 (running 3 .round 1 9 7))
    (fun t => t.pos == ⟨.final, 1, 0, 0⟩) = true := by decide

/-- T-B5b: block 1 of a command whose first counter is `00000000ffffffff`. -/
theorem test_uInit : answers (exec .uInit { running 3 .init 1 0 0 with
      k := key, n := #v[0x03020100, 0x07060504], ctrLo := 0xffffffff })
    (fun t => t.x == #v[0x61707865, 0x3320646e, 0x79622d32, 0x6b206574, 0x03020100, 0x07060504,
      0x0b0a0908, 0x0f0e0d0c, 0x13121110, 0x17161514, 0x1b1a1918, 0x1f1e1d1c, 0x00000000, 0x00000001,
      0x03020100, 0x07060504] && t.saved == t.x && t.pos == ⟨.round, 1, 0, 0⟩) = true := by decide

/-- T-B4. -/
theorem test_uFinal : answers (exec .uFinal { running 3 .final 0 0 0 with
      saved := #v[0x61707865, 0x3320646e, 0x79622d32, 0x6b206574, 0x03020100, 0x07060504, 0x0b0a0908,
        0x0f0e0d0c, 0x13121110, 0x17161514, 0x1b1a1918, 0x1f1e1d1c, 0x00000001, 0x09000000, 0x4a000000,
        0x00000000]
      x := #v[0x837778ab, 0xe238d763, 0xa67ae21e, 0x5950bb2f, 0xc4f2d0c7, 0xfc62bb2f, 0x8fa018fc,
        0x3f5ec7b7, 0x335271c2, 0xf29489f3, 0xeabda8fc, 0x82e46ebd, 0xd19c12b4, 0xb04e16de, 0x9e83d0cb,
        0x4e3c50a2] })
    (fun t => t.x == #v[0xe4e7f110, 0x15593bd1, 0x1fdd0f50, 0xc47120a3, 0xc7f4d1c7, 0x0368c033,
      0x9aaa2204, 0x4e6cd4c3, 0x466482d2, 0x09aa9f07, 0x05d7c214, 0xa2028bd9, 0xd19c12b5, 0xb94e16de,
      0xe883d0cb, 0x4e3c50a2]) = true := by decide

/-- T-M1 line 166: one byte of the second block, then the command is over. -/
theorem test_uEmit : answers (exec .uEmit { running 3 .emit 1 0 0 with
      x := Vector.replicate 16 0xbee7079f })
    (fun t => t.outMem.read 64 == 0x9f && t.outMem.length == 1 && t.olen == 65 && t.err == .ok &&
      t.pos == ⟨.idle, 0, 0, 0⟩) = true := by decide

/-- T-M1 line 83: 64 bytes of the first block, then the next block. -/
theorem test_uEmit_next : answers (exec .uEmit { running 4 .emit 0 0 0 with
      x := Vector.replicate 16 0x01020304, inMem := bytesAt0 [0xff] })
    (fun t => t.outMem.readBytes 0 2 == [0xfb, 0x03 ^^^ Memory.fill] && t.outMem.within 64 &&
      t.pos == ⟨.init, 1, 0, 0⟩) = true := by decide

/-! ### The functions -/

/-- T-R1, T-R2, T-R6, T-R8, T-R10, T-R15. -/
theorem test_rotl32 : rotl32 0x12345678 0 = 0x12345678 ∧ rotl32 0x12345678 32 = 0x12345678 ∧
    rotl32 0x12345678 7 = 0x1a2b3c09 ∧ rotl32 0x12345678 33 = 0x2468acf0 ∧
    rotl32 0x80000000 1 = 0x00000001 ∧ rotl32 0xdeadbeef 12 = 0xdbeefdea := by decide

/-- T-Q1 and T-Q12. -/
theorem test_qr :
    qr 0x11111111 0x01020304 0x9b8d6f43 0x01234567 =
      (0xea2a92f4, 0xcb1cf8ce, 0x4581472e, 0x5881c4bb) ∧
    qr 0xdeadbeef 0xcafebabe 0x01234567 0x89abcdef =
      (0x67a981a6, 0x7d005c0e, 0xa1070741, 0xeba1a1d3) := by decide

/-- T-S3 and T-S4. -/
theorem test_serialize :
    serialize ((Vector.replicate 16 0).set 15 0x80000000) = List.replicate 63 0 ++ [0x80] ∧
    (constants.toList.flatMap bytes32) = [0x65, 0x78, 0x70, 0x61, 0x6e, 0x64, 0x20, 0x33, 0x32, 0x2d,
      0x62, 0x79, 0x74, 0x65, 0x20, 0x6b] := by decide

/-! ### A placed word is the next step's instruction -/

/-- A word of each format, placed in `State.reset`, is what the next step runs. -/
theorem test_withFetchWord :
    answers (step (State.reset.withFetchWord 67 0x10000000400000020)) (fun t => t.klen == 32) = true ∧
    answers (step (State.reset.withFetchWord 32 1)) (fun t => t.err == .invalidKeyLength) = true ∧
    answers (step (State.reset.withFetchWord 16 0x278D)) (fun t => t.pos.qi == 7) = true ∧
    answers (step (State.reset.withFetchWord 3 3)) (fun t => t.pos.ph == .emit) = true := by decide

/-! ### Witnesses: states and operands that meet the hypotheses of each obligation -/

/-- The zero-key instance meets the invariant. -/
theorem inst_inv : inst.Inv :=
  ⟨⟨by decide, by decide⟩, ⟨by decide, by decide⟩, ⟨by decide, by decide, by decide, by decide⟩, rfl⟩

/-- A two-block `KEYSTREAM` in progress at its second block meets the invariant. -/
theorem running_inv (ph : Phase) (h : ph ≠ .idle) : (running 3 ph 1 0 0).Inv := by
  refine ⟨⟨?_, ?_⟩, ⟨?_, ?_⟩, ⟨?_, ?_, ?_, ?_⟩, ?_⟩
  case refine_9 =>
    have hc : (running 3 ph 1 0 0).inCommand := by
      refine ⟨rfl, .inr ⟨.inl rfl, ?_, ?_⟩⟩ <;> cases ph <;> decide
    cases ph with
    | idle => exact absurd rfl h
    | round => exact hc
    | init => exact ⟨hc, rfl, rfl⟩
    | final => exact ⟨hc, rfl, rfl⟩
    | emit => exact ⟨hc, rfl, rfl⟩
  all_goals cases ph <;> decide

theorem witness_DecodedWordsMatchTheirOpcodeRow :
    decode .host 0x400000000ffffffff = .ok (.rout 0) ∧
    decode .host 0x1000000090000ffff = .ok (.wr .nonceHi 0xffff) ∧
    decode .cmd 5 = .ok .decrypt ∧ decode .sched16 0x349E = .ok .uQr7 ∧ decode .seq 4 = .ok .uEmit := by
  decide

theorem witness_OpcodeRowsDoNotOverlap :
    (Instr.rd .cmd).row.format = (Instr.rd .err).row.format ∧
    (Instr.rd .cmd).row.accepts 0x00000000200000000 = true ∧
    (Instr.rd .err).row.accepts 0x00000000200000000 = true := by decide

/-- The numbers at the edges of the register map. -/
theorem witness_RegisterNumbersFollowTheMap :
    [10, 15, 24, 31, 48, 63].all (fun n => regOfNumber n == none) = true ∧
    regOfNumber 9 = some .nonceHi ∧ regOfNumber 16 = some (.keyin 0) ∧
    regOfNumber 23 = some (.keyin 7) ∧ regOfNumber 32 = some (.blk 0) ∧
    regOfNumber 47 = some (.blk 15) := by decide

/-- One transaction of each kind of answer: accepted, reserved register, reserved transaction. -/
theorem witness_StepRunsTheHostTransaction :
    inst.ready ∧ decode .host (0x10000000400000020 : HostWord).toNat = .ok (.wr .klen 32) ∧
    decode .host (0x00000000a00000000 : HostWord).toNat = .error .reservedRegister ∧
    decode .host (0x60000000000000000 : HostWord).toNat = .error .reservedTransaction :=
  ⟨⟨rfl, rfl⟩, by decide, by decide, by decide⟩

theorem witness_StepRunsTheMicroOperationOfThePosition (ph : Phase) (q : Fin 8) :
    (running 3 ph 1 0 q).resetIn = none ∧ (running 3 ph 1 0 q).pos.ph = ph ∧
    (running 3 ph 1 0 q).pos.qi = q := ⟨rfl, rfl, rfl⟩

theorem witness_StepWaitsForTheHost : inst.ready ∧ inst.port = [] := ⟨⟨rfl, rfl⟩, rfl⟩

theorem witness_PortIsClosedDuringACommand : ∃ t,
    (running 3 .emit 1 0 0).resetIn = none ∧ (running 3 .emit 1 0 0).pos.ph ≠ .idle ∧
    step { running 3 .emit 1 0 0 with port := [0] } = .next t := ⟨_, rfl, by decide, rfl⟩

/-- A reset in the middle of a command. -/
theorem witness_ResetLeavesTheSpecifiedValues :
    { running 3 .round 1 0 5 with resetIn := some ResetDraw.named }.resetIn = some ResetDraw.named := rfl

theorem witness_ResetCanDrawAnyContents : Memory.wf [(0, 0x00), (0xffff, 0x01)] = true ∧
    Memory.within (2 ^ 16) [(0, 0x00), (0xffff, 0x01)] = true := by decide

theorem witness_WrWritesExactlyTheNamedRegister : Reg.keyin 7 ≠ .cmd ∧ Reg.blk 15 ≠ .cmd ∧
    Reg.len ≠ .cmd ∧ Reg.status ≠ .cmd := by decide

/-- Each of the three ways a word is illegal, at the edges. -/
theorem witness_IllegalWordsRaiseIllegalCommand : inst.pos = Pos.idle ∧
    (0x00000013 : Word).extractLsb' 4 28 ≠ 0 ∧ (0x00000000 : Word).extractLsb' 0 4 = 0 ∧
    5 < ((0x00000006 : Word).extractLsb' 0 4).toNat := by decide

/-- The last byte address, at both widths. -/
theorem witness_WinWritesOneInputByte : (0xffffffff : Word).toNat < 2 ^ inst.params.lenW ∧
    (0xffff : Word).toNat < 2 ^ inst16.params.lenW ∧ inst.inMem.wf = true := by decide

theorem witness_RoutReadsOneOutputByte : (0xffffffff : Word).toNat < 2 ^ inst.params.lenW ∧
    (0 : Word).toNat < 2 ^ inst16.params.lenW := by decide

/-- The first address that does not exist. -/
theorem witness_AddressesOutOfRangeAreRefused : 2 ^ inst16.params.lenW ≤ (0x10000 : Word).toNat := by
  decide

theorem witness_NewConstructsTheInstance : inst.klen = 32 ∧ inst.pos = Pos.idle := by decide

theorem witness_NewWithAnotherKeyLengthFails : State.reset.klen.toNat ≠ 32 ∧
    { inst with klen := 33 }.klen.toNat ≠ 32 ∧ { inst with klen := 0xffffffff }.klen.toNat ≠ 32 ∧
    inst.pos = Pos.idle := by decide

theorem witness_CommandsWithoutAnInstanceFail : Command.decrypt ≠ .new ∧ State.reset.valid = false ∧
    State.reset.pos = Pos.idle := by decide

/-- T-X5e and T-X5f: the last legal request and the first that overflows. -/
theorem witness_CounterOverflowIsReported : inst.valid = true ∧ inst.pos = Pos.idle ∧
    (1 ≤ (129 + 63) / 64 ∧ 2 ^ 64 - 1 < 0xfffffffe + 2 ^ 32 * 0xffffffff + ((129 + 63) / 64 - 1)) ∧
    ¬ 2 ^ 64 - 1 < 0xfffffffe + 2 ^ 32 * 0xffffffff + ((128 + 63) / 64 - 1) := by decide

/-- A state for each clause, `NotConfigured` before `CounterOverflow` among them (T-X4). -/
theorem witness_FirstErrorThatHoldsIsReported : State.reset.klen ≠ 32 ∧ State.reset.valid = false ∧
    (2 ≤ (2 : Word).toNat ∧ (5 : Word).toNat ≤ 5) ∧ 5 < (6 : Word).toNat ∧
    { inst with ctrLo := 0xffffffff, ctrHi := 0xffffffff, len := 65 }.valid = true ∧
    counterOverflows (65 : Word).toNat (u64 0xffffffff 0xffffffff) = true := by decide

theorem witness_BlockWritesTheBlockWords : inst.params.level = .functional ∧ inst.valid = true ∧
    inst.pos = Pos.idle := by decide

/-- The empty request, a partial block, and a request that ends at the top counter (T-K12). -/
theorem witness_KeystreamWritesTheKeystream : inst.params.level = .functional ∧
    inst.valid = true ∧ inst.pos = Pos.idle ∧ inst.outMem.wf = true ∧
    counterOverflows (0 : Word).toNat (u64 0xffffffff 0xffffffff) = false ∧
    counterOverflows (65 : Word).toNat (u64 0 0) = false ∧
    counterOverflows (64 : Word).toNat (u64 0xffffffff 0xffffffff) = false := by decide

theorem witness_EncryptAndDecryptXorTheInput : (Command.decrypt = .encrypt ∨ Command.decrypt = .decrypt) ∧
    inst.params.level = .functional ∧ inst.valid = true ∧ inst.pos = Pos.idle ∧ inst.outMem.wf = true ∧
    counterOverflows (0xffffffff : Word).toNat (u64 0xfc000000 0xffffffff) = false := by decide

theorem witness_DispatchStartsTheSequencer : seqInst.params.level = .sequenced ∧
    seqInst.valid = true ∧ seqInst.pos = Pos.idle ∧ seqInst.len = 0 ∧
    counterOverflows (1 : Word).toNat (u64 0xffffffff 0xffffffff) = false ∧ (1 : Word) ≠ 0 := by decide

/-- The three ways a quarter round moves on: within a double round, to the next, to the end. -/
theorem witness_QuarterRoundMicroOperations :
    (running 3 .round 0 8 7).pos.dr.val < 9 ∧ (running 3 .round 0 9 7).pos.dr.val = 9 := by decide

/-- The top counter and the one beyond. -/
theorem witness_InitBuildsTheStateArray :
    u64 0xffffffff 0xffffffff + (running 3 .init 0 0 0).pos.bi ≤ 2 ^ 64 - 1 ∧
    2 ^ 64 - 1 < u64 0xffffffff 0xffffffff + (running 3 .init 1 0 0).pos.bi := by decide

theorem witness_EmitOfABlockCommand : (running 2 .emit 0 0 0).opc = 2 := rfl

/-- Both ends of the test for another block, and bytes at the edge of the request. -/
theorem witness_EmitOfADataCommand :
    ((running 3 .emit 0 0 0).opc = 3 ∧ (running 5 .emit 1 0 0).opc = 5) ∧
    (running 3 .emit 0 0 0).outMem.wf = true ∧
    0 + 1 < ((running 3 .emit 0 0 0).len.toNat + 63) / 64 ∧
    ¬ 1 + 1 < ((running 3 .emit 1 0 0).len.toNat + 63) / 64 ∧
    64 * 0 + 63 < (running 3 .emit 0 0 0).len.toNat ∧ 64 * 1 + 0 < (running 3 .emit 1 0 0).len.toNat ∧
    (running 3 .emit 1 0 0).len.toNat ≤ 65 := by decide

theorem witness_QrsChangesOnlyItsFourWords : [(0 : Fin 16), 5, 10, 15].Nodup ∧
    (1 : Fin 16) ∉ [(0 : Fin 16), 5, 10, 15] := by decide

theorem witness_QuarterRoundsOfAPassCommute : (0 : Fin 8) ≠ 3 ∧ ((0 : Fin 8).val < 4 ↔ (3 : Fin 8).val < 4) ∧
    (4 : Fin 8) ≠ 7 ∧ ((4 : Fin 8).val < 4 ↔ (7 : Fin 8).val < 4) := by decide

theorem witness_WordsAndBytesPackLittleEndian : 2 ^ 64 - 1 < 2 ^ 64 ∧
    u64 (lo32 (2 ^ 64 - 1)) (hi32 (2 ^ 64 - 1)) = 2 ^ 64 - 1 := by decide

theorem witness_LengthIsExact :
    (∃ ks, keystream (Vector.replicate 8 0) (Vector.replicate 2 0) 65 0 = some ks) ∧
    ∃ t, exec .decrypt { inst with len := 65 } = .next t ∧ t.err = .ok ∧
      inst.params.level = .functional ∧ inst.outMem.wf = true :=
  ⟨⟨_, rfl⟩, _, rfl, by rfl, rfl, rfl⟩

theorem witness_KeystreamSplitsAtBlocks :
    (∃ z, keystream (Vector.replicate 8 0) (Vector.replicate 2 0) (64 * 1 + 64) (2 ^ 64 - 2) = some z) ∧
    (64 ≤ 64 ∧ 2 ^ 64 - 1 ≤ 2 ^ 64 - 1) := ⟨⟨_, rfl⟩, by decide⟩

theorem witness_EncryptIsXorWithKeystream : ∃ t1 t2,
    exec .keystream { inst with len := 5 } = .next t1 ∧ t1.err = .ok ∧
    exec .encrypt { inst with len := 5, inMem := [(0, 0x68)] } = .next t2 ∧ t2.err = .ok ∧
    inst.params.level = .functional ∧ inst.outMem.wf = true ∧
    ∃ z, process inst.k inst.n [0x68, 0x65] 0 = some z :=
  ⟨_, _, rfl, by rfl, rfl, by rfl, rfl, rfl, _, rfl⟩

/-- The state after an `ENCRYPT` of five bytes. -/
def encrypted : State := State.dataCommand { inst with len := 5 } .encrypt
  (State.processOut { inst with len := 5 })

/-- The same operands with other input. -/
def withInput (m : Memory) : State := { inst with len := 5, inMem := m }

theorem withInput_inMem (m : Memory) : (withInput m).inMem = m := rfl

/-- A data command whose pre-checks pass reports no error. -/
theorem dataCommand_err (s : State) (c : Command) (out : List Byte) (h : s.precheckData = none)
    (hl : s.params.level = .functional) : (s.dataCommand c out).err = .ok := by
  simp only [State.dataCommand, h, hl]
  split <;> rfl

theorem witness_EncryptTwiceIsTheIdentity :
    exec .encrypt { inst with len := 5 } = .next encrypted ∧ encrypted.err = .ok ∧
    (∀ a, a < 5 → (withInput encrypted.outMem).inMem.read a = encrypted.outMem.read a) ∧
    ∃ t2, exec .decrypt (withInput encrypted.outMem) = .next t2 ∧ t2.err = .ok :=
  ⟨rfl, dataCommand_err _ _ _ (by decide) rfl, fun a _ => by rw [withInput_inMem],
    _, rfl, dataCommand_err (withInput encrypted.outMem) _ _ (by rfl) rfl⟩

theorem witness_InvariantHoldsAtReset : 1 ≤ Config.params.lenW ∧ Config.params.lenW ≤ 32 ∧
    1 ≤ inst16.params.lenW ∧ inst16.params.lenW ≤ 32 := by decide

theorem witness_StepKeepsTheInvariant : inst.Inv ∧ (running 3 .round 1 0 0).Inv ∧
    (∃ t, step inst = .next t) ∧ ∃ t, step (running 3 .round 1 0 0) = .next t :=
  ⟨inst_inv, running_inv _ (by decide), ⟨_, rfl⟩, _, rfl⟩

theorem witness_StepKeepsTheWorkingState : (running 3 .init 1 0 0).Inv ∧
    (running 3 .init 1 0 0).workMatches ∧ ∃ t, step (running 3 .init 1 0 0) = .next t :=
  ⟨running_inv _ (by decide), trivial, _, rfl⟩

theorem witness_SequencerAgreesWithTheFunctions : inst.Inv ∧ inst.ready ∧
    ∃ t, exec .block (inst.atLevel .functional) = .next t := ⟨inst_inv, ⟨rfl, rfl⟩, _, rfl⟩

theorem witness_EveryCommandEnds : (running 3 .round 1 0 0).Inv ∧
    (running 3 .round 1 0 0).resetIn = none ∧ (running 3 .round 1 0 0).pos.ph ≠ .idle :=
  ⟨running_inv _ (by decide), rfl, by decide⟩

theorem witness_LegalStatesNeverFault : (running 3 .init 1 0 0).Inv := running_inv _ (by decide)

/-- Two states at one position with different keys and data. -/
theorem witness_SequencerPathIgnoresSecrets : ∃ t t',
    (running 3 .emit 1 0 0).pos = { running 3 .emit 1 0 0 with k := key }.pos ∧
    (running 3 .emit 1 0 0).pos.ph ≠ .idle ∧
    step (running 3 .emit 1 0 0) = .next t ∧
    step { running 3 .emit 1 0 0 with k := key, x := Vector.replicate 16 0 } = .next t' :=
  ⟨_, _, rfl, by decide, rfl, rfl⟩

/-- Two instances with different keys and inputs. -/
theorem witness_HostReadsHideTheSecrets :
    inst.sameToHost { inst with k := key, keyin := key, inMem := [(0, 0x68)] } ∧
    ∃ t, exec (.rout 0) inst = .next t :=
  ⟨⟨rfl, rfl, rfl, rfl, rfl, rfl, rfl, rfl, rfl, rfl, rfl, rfl⟩, _, rfl⟩

theorem witness_OnlyNewWritesTheInstance : ∃ t, exec .new { inst with keyin := key } = .next t ∧
    (t.k ≠ ({ inst with keyin := key } : State).k ∨ t.n ≠ ({ inst with keyin := key } : State).n) :=
  ⟨_, rfl, .inl (by decide)⟩

theorem witness_CommandsLeaveTheOperands : ∃ t, exec .keystream inst = .next t ∧
    (∀ r v, Instr.keystream = .wr r v → r = .cmd) ∧ ∀ a b, Instr.keystream ≠ .win a b :=
  ⟨_, rfl, fun _ _ h => (by cases h), fun _ _ h => (by cases h)⟩

set_option maxRecDepth 100000 in
theorem witness_OnlyResultsAreWritten :
    (∃ t, exec .uEmit { running 2 .emit 0 0 0 with x := Vector.replicate 16 0 } = .next t ∧
      t.blk ≠ (running 2 .emit 0 0 0).blk) ∧
    ∃ t, exec .uEmit { running 3 .emit 0 0 0 with x := Vector.replicate 16 0 } = .next t ∧
      t.outMem ≠ (running 3 .emit 0 0 0).outMem :=
  ⟨⟨_, rfl, by decide⟩, _, rfl, by decide⟩

theorem witness_FailedCommandsAreInert : ∃ t, State.reset.params.level = .functional ∧
    State.reset.pos = Pos.idle ∧ exec .new State.reset = .next t ∧ t.err ≠ .ok :=
  ⟨_, rfl, rfl, rfl, by decide⟩

theorem witness_RepeatingACommandChangesNothingMore : inst.Inv ∧ inst.params.level = .functional ∧
    inst.ready ∧ ∃ t, exec .encrypt { inst with len := 5 } = .next t :=
  ⟨inst_inv, rfl, ⟨rfl, rfl⟩, _, rfl⟩

end Sys2Proof.Tests
end

section
/-! Little-endian packing (R16), and the host port during a command (R10, R64). -/

namespace Sys2Proof.Machine

variable {s t : State}

/-! ### Little-endian packing (R16) -/

/-- A byte appended at the low end, as a sum. -/
theorem toNat_append_byte {n : Nat} (v : BitVec n) (b : Byte) :
    (v ++ b).toNat = 2 ^ 8 * v.toNat + b.toNat := by
  rw [BitVec.toNat_append, ← Nat.shiftLeft_add_eq_or_of_lt b.isLt, Nat.shiftLeft_eq, Nat.mul_comm]

/-- `le32` weighs each byte by its place, the first byte least. -/
theorem le32_toNat (b0 b1 b2 b3 : Byte) :
    (le32 b0 b1 b2 b3).toNat =
      b0.toNat + 2 ^ 8 * b1.toNat + 2 ^ 16 * b2.toNat + 2 ^ 24 * b3.toNat := by
  rw [le32, toNat_append_byte, toNat_append_byte, toNat_append_byte]
  omega

/-- Reading a word's bytes undoes packing them. -/
theorem bytes32_le32 (b0 b1 b2 b3 : Byte) : bytes32 (le32 b0 b1 b2 b3) = [b0, b1, b2, b3] := by
  have h0 := b0.isLt
  have h1 := b1.isLt
  have h2 := b2.isLt
  have h3 := b3.isLt
  simp only [bytes32, List.cons.injEq, and_true, ← BitVec.toNat_inj, BitVec.extractLsb'_toNat,
    le32_toNat, Nat.shiftRight_eq_div_pow]
  omega

/-- A 64-bit number is put together again from its halves. -/
theorem u64_lo32_hi32 (c : Nat) (h : c < 2 ^ 64) : u64 (lo32 c) (hi32 c) = c := by
  rw [u64, lo32_toNat, hi32_toNat]
  omega

/-- Settles O42: the weights of the four bytes, then each byte and each half by division. -/
theorem wordsAndBytesPackLittleEndian : Obligations.WordsAndBytesPackLittleEndian :=
  ⟨fun b0 b1 b2 b3 => ⟨bytes32_le32 b0 b1 b2 b3, le32_toNat b0 b1 b2 b3⟩, u64_lo32_hi32⟩

/-! ### The steps of a command in progress (R184) -/

theorem execUInit_ok (h : s.blockCounter ≤ 2 ^ 64 - 1) : execUInit s = .next s.buildBlock := if_pos h

theorem execUInit_overflow (h : ¬ s.blockCounter ≤ 2 ^ 64 - 1) :
    execUInit s = .fault .counterOverflow := if_neg h

theorem execUEmit_last (h : s.lastBlock = true) :
    execUEmit s = .next (s.storeBlock.completeBlocks s.finalOlen) := by
  rw [execUEmit, if_pos h]

theorem execUEmit_more (h : s.lastBlock = false) :
    execUEmit s = .next { s.storeBlock with pos := s.pos.nextBlock } := by
  rw [execUEmit, h, if_neg Bool.false_ne_true]

/-- Everything a step of a command in progress can answer as a next state. -/
theorem step_inCommand_cases (hr : s.resetIn = none) (hp : s.pos.ph ≠ .idle)
    (hs : step s = .next t) :
    (s.pos.ph = .init ∧ s.blockCounter ≤ 2 ^ 64 - 1 ∧ t = s.buildBlock) ∨
    (s.pos.ph = .round ∧ t = s.quarterRound s.pos.qi) ∨
    (s.pos.ph = .final ∧ t = s.addSaved) ∨
    (s.pos.ph = .emit ∧ s.lastBlock = true ∧ t = s.storeBlock.completeBlocks s.finalOlen) ∨
    (s.pos.ph = .emit ∧ s.lastBlock = false ∧ t = { s.storeBlock with pos := s.pos.nextBlock }) := by
  cases h : s.pos.ph with
  | idle => exact absurd h hp
  | init =>
    rw [step_init hr h] at hs
    by_cases hc : s.blockCounter ≤ 2 ^ 64 - 1
    · rw [execUInit_ok hc] at hs
      cases hs
      exact .inl ⟨rfl, hc, rfl⟩
    · rw [execUInit_overflow hc] at hs
      cases hs
  | round =>
    rw [step_round hr h] at hs
    cases hs
    exact .inr (.inl ⟨rfl, rfl⟩)
  | final =>
    rw [step_final hr h] at hs
    cases hs
    exact .inr (.inr (.inl ⟨rfl, rfl⟩))
  | emit =>
    rw [step_emit hr h] at hs
    cases hl : s.lastBlock with
    | true =>
      rw [execUEmit_last hl] at hs
      cases hs
      exact .inr (.inr (.inr (.inl ⟨rfl, rfl, rfl⟩)))
    | false =>
      rw [execUEmit_more hl] at hs
      cases hs
      exact .inr (.inr (.inr (.inr ⟨rfl, rfl, rfl⟩)))

/-- Settles O12: no micro-operation writes the port, and outside `IDLE` a step is one. -/
theorem portIsClosedDuringACommand : Obligations.PortIsClosedDuringACommand := by
  intro s t hr hp hs
  obtain ⟨-, -, rfl⟩ | ⟨-, rfl⟩ | ⟨-, rfl⟩ | ⟨-, -, rfl⟩ | ⟨-, -, rfl⟩ :=
    step_inCommand_cases hr hp hs
  · exact State.buildBlock_port s
  · exact State.quarterRound_port s s.pos.qi
  · exact State.addSaved_port s
  · rw [State.completeBlocks_port, State.storeBlock_port]
  · exact State.storeBlock_port s

end Sys2Proof.Machine
end
section
/-! The two descriptions of a command (R11, R189): a run of the sequencer, composed from its
micro-operations up to quarter rounds, double rounds, one block and all blocks of a command. -/

namespace Sys2Proof.Machine

variable {s t u : State}

/-! ### Runs -/

/-- A run goes on from the state an earlier run answers. -/
theorem core_run_add {j : Nat} (h : Host.Core.run Sys2Proof.core j s = .next t) (k : Nat) :
    Host.Core.run Sys2Proof.core (j + k) s = Host.Core.run Sys2Proof.core k t := by
  have general : ∀ (M : Host.Core) (j : Nat) (a b : M.State),
      M.run j a = .next b → M.run (j + k) a = M.run k b := by
    intro M j
    induction j with
    | zero =>
      intro a b hab
      cases hab
      rw [Nat.zero_add]
    | succ j ih =>
      intro a b hab
      rw [Nat.succ_add, Host.Core.run]
      rw [Host.Core.run] at hab
      cases hs : M.step a with
      | next c =>
        rw [hs] at hab
        exact ih c b hab
      | fault r => rw [hs] at hab; cases hab
      | refused r => rw [hs] at hab; cases hab
  exact general Sys2Proof.core j s t h

theorem core_run_trans {j k : Nat} (h : Host.Core.run Sys2Proof.core j s = .next t)
    (h' : Host.Core.run Sys2Proof.core k t = .next u) :
    Host.Core.run Sys2Proof.core (j + k) s = .next u := (core_run_add h k).trans h'

theorem core_run_one (h : step s = .next t) : Host.Core.run Sys2Proof.core 1 s = .next t :=
  core_run_next h 0

/-! ### The rounds of a block (R145) -/

/-- The state in the rounds of its block, at a double round and a quarter round. -/
def State.inRounds (s : State) (d : Fin 10) (q : Fin 8) (x : Vector Word 16) : State :=
  { s with x := x, pos := { ph := .round, bi := s.pos.bi, dr := d, qi := q } }

/-- The state with the rounds of its block done. -/
def State.roundsDone (s : State) (x : Vector Word 16) : State :=
  { s with x := x, pos := { ph := .final, bi := s.pos.bi, dr := 0, qi := 0 } }

theorem step_inRounds (hr : s.resetIn = none) (d : Fin 10) (q : Fin 8) (x : Vector Word 16) :
    step (s.inRounds d q x) = .next ((s.inRounds d q x).quarterRound q) := step_round hr rfl

theorem step_roundsDone (hr : s.resetIn = none) (x : Vector Word 16) :
    step (s.roundsDone x) = .next (s.roundsDone x).addSaved := step_final hr rfl

theorem quarterRound_inRounds_lt (d : Fin 10) (q : Nat) (h : q + 1 < 8) (x : Vector Word 16) :
    (s.inRounds d ⟨q, by omega⟩ x).quarterRound ⟨q, by omega⟩ =
      s.inRounds d ⟨q + 1, h⟩ (qrs x sched[q]) := by
  rw [State.quarterRound, Pos.afterQr_lt _ _ (Nat.lt_of_succ_lt_succ h)]
  rfl

theorem quarterRound_inRounds_again (d : Nat) (h : d + 1 < 10) (x : Vector Word 16) :
    (s.inRounds ⟨d, by omega⟩ 7 x).quarterRound 7 =
      s.inRounds ⟨d + 1, h⟩ 0 (qrs x sched[7]) := by
  rw [State.quarterRound, Pos.afterQr_again _ _ rfl (Nat.lt_of_succ_lt_succ h)]
  rfl

theorem quarterRound_inRounds_done (x : Vector Word 16) :
    (s.inRounds 9 7 x).quarterRound 7 = s.roundsDone (qrs x sched[7]) := by
  rw [State.quarterRound, Pos.afterQr_done _ _ rfl rfl]
  rfl

/-- The first `q` quarter rounds of a double round, `q` micro-operations. -/
theorem run_quarterRounds (hr : s.resetIn = none) (d : Fin 10) (x : Vector Word 16) (q : Nat)
    (h : q < 8) :
    Host.Core.run Sys2Proof.core q (s.inRounds d 0 x) =
      .next (s.inRounds d ⟨q, h⟩ (quarterRounds q x)) := by
  induction q with
  | zero => rfl
  | succ q ih =>
    have hq : q < 8 := by omega
    have hstep := step_inRounds hr d ⟨q, hq⟩ (quarterRounds q x)
    rw [quarterRound_inRounds_lt d q h] at hstep
    rw [quarterRounds_succ x ⟨q, hq⟩]
    exact core_run_trans (ih hq) (core_run_one hstep)

/-- The double round is its first seven quarter rounds and the last one. -/
theorem doubleRound_eq_last (x : Vector Word 16) :
    doubleRound x = qrs (quarterRounds 7 x) sched[7] := quarterRounds_succ x 7

/-- A double round, eight micro-operations; `f` is where the last of them leads. -/
theorem run_doubleRound (hr : s.resetIn = none) (d : Fin 10) (x : Vector Word 16)
    (f : Vector Word 16 → State)
    (h : ∀ y, (s.inRounds d 7 y).quarterRound 7 = f (qrs y sched[7])) :
    Host.Core.run Sys2Proof.core 8 (s.inRounds d 0 x) = .next (f (doubleRound x)) := by
  have hstep := step_inRounds hr d 7 (quarterRounds 7 x)
  rw [h] at hstep
  rw [doubleRound_eq_last]
  exact core_run_trans (run_quarterRounds hr d x 7 (by decide)) (core_run_one hstep)

/-- The first `d` double rounds of a block, eight micro-operations each. -/
theorem run_doubleRounds (hr : s.resetIn = none) (x : Vector Word 16) (d : Nat) (h : d < 10) :
    Host.Core.run Sys2Proof.core (8 * d) (s.inRounds 0 0 x) =
      .next (s.inRounds ⟨d, h⟩ 0 (doubleRounds d x)) := by
  induction d with
  | zero => rfl
  | succ d ih =>
    have hd : d < 10 := by omega
    rw [doubleRounds_succ]
    exact core_run_trans (ih hd) (run_doubleRound hr ⟨d, hd⟩ _ _
      (quarterRound_inRounds_again d h))

/-- The rounds of a block, 80 micro-operations. -/
theorem run_rounds (hr : s.resetIn = none) (x : Vector Word 16) :
    Host.Core.run Sys2Proof.core 80 (s.inRounds 0 0 x) = .next (s.roundsDone (rounds x)) := by
  rw [rounds, doubleRounds_succ]
  exact core_run_trans (run_doubleRounds hr x 9 (by decide))
    (run_doubleRound hr 9 _ _ quarterRound_inRounds_done)

/-! ### One block (R149, R150) -/

/-- The state in which a block is computed and waits to be stored. -/
def State.blockDone (s : State) : State :=
  { s with
    x := block s.k s.n s.blockCounter
    saved := initState s.k s.n s.blockCounter
    pos := { ph := .emit, bi := s.pos.bi, dr := 0, qi := 0 } }

section

variable (s : State)

@[simp] theorem State.blockDone_x : s.blockDone.x = block s.k s.n s.blockCounter := rfl
@[simp] theorem State.blockDone_opc : s.blockDone.opc = s.opc := by simp only [State.blockDone]
@[simp] theorem State.blockDone_inMem : s.blockDone.inMem = s.inMem := by simp only [State.blockDone]
@[simp] theorem State.blockDone_resetIn : s.blockDone.resetIn = s.resetIn := by
  simp only [State.blockDone]
@[simp] theorem State.blockDone_bi : s.blockDone.pos.bi = s.pos.bi := by simp only [State.blockDone]
@[simp] theorem State.blockDone_keptBytes : s.blockDone.keptBytes = s.keptBytes := by
  simp only [State.blockDone, State.keptBytes]

end

/-- The feed-forward after the rounds, on whatever they left. -/
theorem addSaved_roundsDone (s : State) (x : Vector Word 16) :
    (s.buildBlock.roundsDone x).addSaved =
      { s with
        x := feedForward x (initState s.k s.n s.blockCounter)
        saved := initState s.k s.n s.blockCounter
        pos := { ph := .emit, bi := s.pos.bi, dr := 0, qi := 0 } } := rfl

/-- The block is the feed-forward of the rounds (R146). -/
theorem addSaved_rounds (s : State) :
    (s.buildBlock.roundsDone (rounds s.buildBlock.x)).addSaved = s.blockDone := by
  rw [addSaved_roundsDone, State.buildBlock_x, ← block, ← State.blockDone]

/-- A block from `INIT` to `EMIT`, 82 micro-operations. -/
theorem run_block (hr : s.resetIn = none) (hp : s.pos.ph = .init)
    (hc : s.blockCounter ≤ 2 ^ 64 - 1) :
    Host.Core.run Sys2Proof.core 82 s = .next s.blockDone := by
  have hinit : Host.Core.run Sys2Proof.core 1 s = .next s.buildBlock :=
    core_run_one ((step_init hr hp).trans (execUInit_ok hc))
  have hr' : s.buildBlock.resetIn = none := hr
  have hfinal := step_roundsDone hr' (rounds s.buildBlock.x)
  rw [addSaved_rounds] at hfinal
  exact core_run_trans (core_run_trans hinit (run_rounds hr' s.buildBlock.x)) (core_run_one hfinal)

/-- A block and its store, 83 micro-operations. -/
theorem run_blockAndEmit (hr : s.resetIn = none) (hp : s.pos.ph = .init)
    (hc : s.blockCounter ≤ 2 ^ 64 - 1) (he : execUEmit s.blockDone = .next t) :
    Host.Core.run Sys2Proof.core 83 s = .next t :=
  core_run_trans (run_block hr hp hc)
    (core_run_one ((step_emit (s.blockDone_resetIn.trans hr) rfl).trans he))

/-! ### A block's share of a request (R170, R182) -/

/-- The bytes of block `b` that are left of a keystream cut to length. -/
theorem keystreamBytes_slice (k : Vector Word 8) (n : Vector Word 2) (len c0 b : Nat) :
    ((keystreamBytes k n len c0).drop (64 * b)).take 64 =
      (blockBytes k n (c0 + b)).take (min 64 (len - 64 * b)) := by
  apply List.ext_getElem?
  intro i
  by_cases hi : i < min 64 (len - 64 * b)
  · rw [List.getElem?_take_of_lt (by omega), List.getElem?_drop, List.getElem?_take_of_lt hi,
      keystreamBytes_getElem k n len c0 _ (by omega), show (64 * b + i) / 64 = b by omega,
      show (64 * b + i) % 64 = i by omega]
  · rw [List.getElem?_eq_none (by simp; omega), List.getElem?_eq_none (by simp; omega)]

/-- A part of what is read is what is read there. -/
theorem Memory.readBytes_slice (m : Memory) (n i j : Nat) :
    ((m.readBytes 0 n).drop i).take j = m.readBytes i (min j (n - i)) := by
  apply List.ext_getElem
  · simp
  · intro a _ _
    simp [Memory.readBytes_getElem]

theorem xorBytes_slice (data ks : List Byte) (i j : Nat) :
    ((xorBytes data ks).drop i).take j = xorBytes ((data.drop i).take j) ((ks.drop i).take j) := by
  rw [xorBytes, List.drop_zipWith, List.take_zipWith, ← xorBytes]

/-! ### The opcode in progress (R84) -/

theorem opcode_ne_block {c : Command} (hb : c ≠ .block) : c.opcode ≠ Command.block.opcode := by
  revert hb
  cases c <;> decide

theorem opcode_eq_keystream (c : Command) : c.opcode = Command.keystream.opcode ↔ c = .keystream := by
  cases c <;> decide

/-! ### The data commands, block by block (R173, R174, R182) -/

/-- What a data command writes to `OUT`. -/
def State.dataOut (s : State) (c : Command) : List Byte :=
  if c = .keystream then s.keystreamOut else s.processOut

@[simp] theorem State.dataOut_length (s : State) (c : Command) :
    (s.dataOut c).length = s.len.toNat := by
  rw [State.dataOut]
  split
  · exact State.keystreamOut_length s
  · exact State.processOut_length s

theorem exec_dataCommand {c : Command} (hc : c = .keystream ∨ c = .encrypt ∨ c = .decrypt)
    (s : State) : exec c.instr s = .next (s.dataCommand c (s.dataOut c)) := by
  obtain rfl | rfl | rfl := hc <;> rfl

section

variable {c : Command} (hd : c = .keystream ∨ c = .encrypt ∨ c = .decrypt)
include hd

theorem exec_dataCommand_fail {e : ErrCode} (h : s.precheckData = some e) :
    exec c.instr s = .next (s.fail e) := by
  rw [exec_dataCommand hd, State.dataCommand_fail c _ h]

theorem exec_dataCommand_empty (h : s.precheckData = none) (h0 : s.nblk = 0) :
    exec c.instr s = .next (s.complete s.len) := by
  rw [exec_dataCommand hd, State.dataCommand_empty c _ h h0]

theorem exec_dataCommand_functional (h : s.precheckData = none) (h0 : s.nblk ≠ 0)
    (hl : s.params.level = .functional) :
    exec c.instr s = .next ((s.storeOut 0 (s.dataOut c)).completeBlocks s.len) := by
  rw [exec_dataCommand hd, State.dataCommand_functional c _ h h0 hl]

theorem exec_dataCommand_sequenced (h : s.precheckData = none) (h0 : s.nblk ≠ 0)
    (hl : s.params.level = .sequenced) : exec c.instr s = .next (s.dispatch c) := by
  rw [exec_dataCommand hd, State.dataCommand_sequenced c _ h h0 hl]

/-- A data command's number of micro-operations (R183). -/
theorem microOps_dataCommand :
    s.microOps c = if s.precheckData = none then 83 * s.nblk else 0 := by
  cases h : s.precheckData with
  | none => obtain rfl | rfl | rfl := hd <;> simp only [State.microOps, State.precheck, h, if_true]
  | some e => obtain rfl | rfl | rfl := hd <;> simp only [State.microOps, State.precheck, h] <;> rfl

end

/-- What `U_EMIT` stores of a finished block is the block's part of the command's output. -/
theorem emitBytes_blockDone {c : Command} (ho : s.opc = c.opcode) :
    s.blockDone.emitBytes = ((s.dataOut c).drop (64 * s.pos.bi)).take 64 := by
  have hks : (s.keystreamOut.drop (64 * s.pos.bi)).take 64 =
      (serialize (block s.k s.n s.blockCounter)).take s.keptBytes :=
    keystreamBytes_slice s.k s.n s.len.toNat s.ctr s.pos.bi
  simp only [State.emitBytes, State.dataOut, State.blockDone_opc, State.blockDone_x,
    State.blockDone_keptBytes, State.blockDone_inMem, State.blockDone_bi, ho, opcode_eq_keystream]
  split
  · exact hks.symm
  · rw [State.processOut, xorBytes_slice, Memory.readBytes_slice, hks, State.keptBytes]

/-- The state with the first `b` blocks of a data command stored and the next one due; `x` and
`saved` are what the blocks left in the working state. -/
def State.blocksDone (s : State) (c : Command) (b : Nat) (x saved : Vector Word 16) : State :=
  { s.storeOut 0 ((s.dataOut c).take (64 * b)) with
    x := x, saved := saved, pos := { ph := .init, bi := b, dr := 0, qi := 0 } }

@[simp] theorem State.blocksDone_opc (s : State) (c : Command) (b : Nat)
    (x saved : Vector Word 16) : (s.blocksDone c b x saved).opc = s.opc := rfl

theorem State.storeOut_append (s : State) (a : Nat) (bs bs' : List Byte) :
    s.storeOut a (bs ++ bs') = (s.storeOut a bs).storeOut (a + bs.length) bs' := by
  simp only [State.storeOut, Memory.writeBytes_append]

/-- Storing the next block makes the stored part of the output one block longer. -/
theorem storeBlock_blocksDone {c : Command} (ho : s.opc = c.opcode) (hb : c ≠ .block) {b : Nat}
    (h : b < s.nblk) (x saved : Vector Word 16) :
    (s.blocksDone c b x saved).blockDone.storeBlock =
      { s.storeOut 0 ((s.dataOut c).take (64 * (b + 1))) with
        x := (s.blocksDone c b x saved).blockDone.x
        saved := (s.blocksDone c b x saved).blockDone.saved
        pos := (s.blocksDone c b x saved).blockDone.pos } := by
  have hlen : 64 * b ≤ s.len.toNat := by
    simp only [State.nblk, Machine.nblk] at h
    omega
  have hpart : (s.blocksDone c b x saved).blockDone.emitBytes =
    ((s.dataOut c).drop (64 * b)).take 64 := emitBytes_blockDone ho
  have hat : 64 * b = 0 + ((s.dataOut c).take (64 * b)).length := by
    simp [hlen]
  rw [State.storeBlock, State.blockDone_opc, State.blocksDone_opc, ho,
    if_neg (opcode_ne_block hb), hpart, Nat.mul_succ, List.take_add, State.storeOut_append, ← hat]
  rfl

/-- The end of a command forgets the hidden fields (R183, U4). -/
theorem State.completeBlocks_forgets (s : State) (v : Word) (x saved : Vector Word 16) (p : Pos)
    (o : BitVec 4) :
    { s with x := x, saved := saved, pos := p, opc := o }.completeBlocks v = s.completeBlocks v :=
  rfl

/-- A request whose pre-check passes stays below the top counter (R223). -/
theorem State.counterOverflows_of_precheckData (h : s.precheckData = none) :
    counterOverflows s.len.toNat s.ctr = false := by
  obtain ⟨-, hp⟩ | ⟨-, -, hp⟩ | ⟨-, ho, -⟩ := s.precheckData_cases
  · cases h.symm.trans hp
  · cases h.symm.trans hp
  · exact ho

/-- No block of a request that passes the pre-check runs the counter over (R223). -/
theorem State.ctr_add_le (hc : counterOverflows s.len.toNat s.ctr = false) {b : Nat}
    (h : b < s.nblk) : s.ctr + b ≤ 2 ^ 64 - 1 := by
  rw [counterOverflows_false_iff, ← State.nblk] at hc
  omega

section DataCommand

variable {c : Command} (hr : s.resetIn = none) (ho : s.opc = c.opcode) (hb : c ≠ .block)
  (hc : counterOverflows s.len.toNat s.ctr = false)

include ho hb in
theorem lastBlock_blocksDone (b : Nat) (x saved : Vector Word 16) :
    (s.blocksDone c b x saved).blockDone.lastBlock = decide (s.nblk ≤ b + 1) := by
  rw [State.lastBlock, State.blockDone_opc, State.blocksDone_opc, ho,
    decide_eq_false (opcode_ne_block hb), Bool.false_or]
  rfl

include ho hb in
theorem finalOlen_blocksDone (b : Nat) (x saved : Vector Word 16) :
    (s.blocksDone c b x saved).blockDone.finalOlen = s.len := by
  rw [State.finalOlen, State.blockDone_opc, State.blocksDone_opc, ho, if_neg (opcode_ne_block hb)]
  rfl

include hr ho hb hc

/-- A block of a data command that another one follows, 83 micro-operations. -/
theorem run_nextBlock {b : Nat} (h : b + 1 < s.nblk) (x saved : Vector Word 16) :
    ∃ x' saved', Host.Core.run Sys2Proof.core 83 (s.blocksDone c b x saved) =
      .next (s.blocksDone c (b + 1) x' saved') := by
  have hlast : (s.blocksDone c b x saved).blockDone.lastBlock = false := by
    rw [lastBlock_blocksDone ho hb, decide_eq_false (by omega)]
  have hemit := execUEmit_more hlast
  rw [storeBlock_blocksDone ho hb (by omega)] at hemit
  exact ⟨_, _, run_blockAndEmit (s := s.blocksDone c b x saved) hr rfl
    (State.ctr_add_le hc (b := b) (by omega)) hemit⟩

/-- The last block of a data command, 83 micro-operations. -/
theorem run_lastBlock {b : Nat} (h : b + 1 = s.nblk) (x saved : Vector Word 16) :
    Host.Core.run Sys2Proof.core 83 (s.blocksDone c b x saved) =
      .next ((s.storeOut 0 (s.dataOut c)).completeBlocks s.len) := by
  have hlast : (s.blocksDone c b x saved).blockDone.lastBlock = true := by
    rw [lastBlock_blocksDone ho hb, decide_eq_true (by omega)]
  have hall : (s.dataOut c).take (64 * (b + 1)) = s.dataOut c := by
    apply List.take_of_length_le
    rw [State.dataOut_length, h]
    exact le_nblk _
  have hemit := execUEmit_last hlast
  rw [storeBlock_blocksDone ho hb (by omega), finalOlen_blocksDone ho hb, hall,
    State.completeBlocks_forgets] at hemit
  exact run_blockAndEmit (s := s.blocksDone c b x saved) hr rfl
    (State.ctr_add_le hc (b := b) (by omega)) hemit

/-- The first `b` blocks of a data command, 83 micro-operations each. -/
theorem run_blocks (x saved : Vector Word 16) (b : Nat) (h : b < s.nblk) :
    ∃ x' saved', Host.Core.run Sys2Proof.core (83 * b) (s.blocksDone c 0 x saved) =
      .next (s.blocksDone c b x' saved') := by
  induction b with
  | zero => exact ⟨x, saved, rfl⟩
  | succ b ih =>
    obtain ⟨x₁, saved₁, hrun⟩ := ih (by omega)
    obtain ⟨x₂, saved₂, hnext⟩ := run_nextBlock hr ho hb hc h x₁ saved₁
    exact ⟨x₂, saved₂, core_run_trans hrun hnext⟩

/-- All blocks of a data command. -/
theorem run_allBlocks (x saved : Vector Word 16) (h : s.nblk ≠ 0) :
    Host.Core.run Sys2Proof.core (83 * s.nblk) (s.blocksDone c 0 x saved) =
      .next ((s.storeOut 0 (s.dataOut c)).completeBlocks s.len) := by
  obtain ⟨b, hn⟩ := Nat.exists_eq_add_one_of_ne_zero h
  obtain ⟨x', saved', hrun⟩ := run_blocks hr ho hb hc x saved b (by omega)
  rw [hn]
  exact core_run_trans hrun (run_lastBlock hr ho hb hc hn.symm x' saved')

end DataCommand

/-- At its dispatch a data command has stored no block. -/
theorem blocksDone_dispatch (s : State) (c : Command) :
    (s.dispatch c).blocksDone c 0 s.x s.saved = s.dispatch c := by
  rw [State.blocksDone, Nat.mul_zero, List.take_zero]
  rfl

/-- A data command from its dispatch to its end. -/
theorem run_dataCommand {c : Command} (hr : s.resetIn = none) (hb : c ≠ .block)
    (hc : counterOverflows s.len.toNat s.ctr = false) (h : s.nblk ≠ 0) :
    Host.Core.run Sys2Proof.core (83 * s.nblk) (s.dispatch c) =
      .next ((s.storeOut 0 (s.dataOut c)).completeBlocks s.len) := by
  rw [← blocksDone_dispatch]
  exact run_allBlocks (s := s.dispatch c) hr rfl hb hc s.x s.saved h

/-- `BLOCK` from its dispatch to its end. -/
theorem run_blockCommand (hr : s.resetIn = none) :
    Host.Core.run Sys2Proof.core 83 (s.dispatch .block) =
      .next ({ s with blk := block s.k s.n s.ctr }.completeBlocks 0) := by
  have hstore : (s.dispatch .block).blockDone.storeBlock =
      { ({ s with blk := block s.k s.n s.ctr } : State) with
        x := (s.dispatch .block).blockDone.x
        saved := (s.dispatch .block).blockDone.saved
        pos := (s.dispatch .block).blockDone.pos
        opc := Command.block.opcode } := if_pos rfl
  have hemit := execUEmit_last (s := (s.dispatch .block).blockDone) rfl
  rw [hstore, show (s.dispatch .block).blockDone.finalOlen = 0 from if_pos rfl,
    State.completeBlocks_forgets] at hemit
  exact run_blockAndEmit (s := s.dispatch .block) hr rfl
    (Nat.le_sub_one_of_lt (u64_lt s.ctrLo s.ctrHi)) hemit

/-! ### The agreement of the two descriptions (R11, R189) -/

/-- A command run by its pseudocode and the same command run by the sequencer from its dispatch end
in the same state. -/
def State.descriptionsAgree (s : State) (c : Command) : Prop :=
  ∃ t u, exec c.instr (s.atLevel .functional) = .next t ∧
    exec c.instr (s.atLevel .sequenced) = .next u ∧
    Host.Core.run Sys2Proof.core (s.microOps c) u = .next (t.atLevel .sequenced)

theorem newCommand_descriptionsAgree (s : State) : s.descriptionsAgree .new := by
  by_cases h : s.klen = 32
  · refine ⟨_, _, execNew_ok (s := s.atLevel .functional) h,
      execNew_ok (s := s.atLevel .sequenced) h, ?_⟩
    simp only [State.microOps, State.precheck, State.precheckNew_ok h]
    rfl
  · refine ⟨_, _, execNew_fail (s := s.atLevel .functional) h,
      execNew_fail (s := s.atLevel .sequenced) h, ?_⟩
    simp only [State.microOps, State.precheck, State.precheckNew_fail h]
    rfl

theorem blockCommand_descriptionsAgree (hr : s.resetIn = none) : s.descriptionsAgree .block := by
  cases h : s.valid with
  | false =>
    refine ⟨_, _, execBlock_fail (s := s.atLevel .functional) h,
      execBlock_fail (s := s.atLevel .sequenced) h, ?_⟩
    simp only [State.microOps, State.precheck, State.precheckBlock_fail h]
    rfl
  | true =>
    refine ⟨_, _, execBlock_functional (s := s.atLevel .functional) h rfl,
      execBlock_sequenced (s := s.atLevel .sequenced) h rfl, ?_⟩
    simp only [State.microOps, State.precheck, State.precheckBlock_ok h]
    exact run_blockCommand (s := s.atLevel .sequenced) hr

theorem dataCommand_descriptionsAgree {c : Command}
    (hd : c = .keystream ∨ c = .encrypt ∨ c = .decrypt) (hr : s.resetIn = none) :
    s.descriptionsAgree c := by
  cases h : s.precheckData with
  | some e =>
    refine ⟨_, _, exec_dataCommand_fail (s := s.atLevel .functional) hd h,
      exec_dataCommand_fail (s := s.atLevel .sequenced) hd h, ?_⟩
    rw [microOps_dataCommand hd, h]
    rfl
  | none =>
    by_cases h0 : s.nblk = 0
    · refine ⟨_, _, exec_dataCommand_empty (s := s.atLevel .functional) hd h h0,
        exec_dataCommand_empty (s := s.atLevel .sequenced) hd h h0, ?_⟩
      rw [microOps_dataCommand hd, if_pos h, h0]
      rfl
    · refine ⟨_, _, exec_dataCommand_functional (s := s.atLevel .functional) hd h h0 rfl,
        exec_dataCommand_sequenced (s := s.atLevel .sequenced) hd h h0 rfl, ?_⟩
      rw [microOps_dataCommand hd, if_pos h]
      have hb : c ≠ .block := by
        obtain rfl | rfl | rfl := hd <;> decide
      exact run_dataCommand (s := s.atLevel .sequenced) hr hb
        (State.counterOverflows_of_precheckData h) h0

theorem command_descriptionsAgree (c : Command) (hr : s.resetIn = none) :
    s.descriptionsAgree c := by
  cases c with
  | new => exact newCommand_descriptionsAgree s
  | block => exact blockCommand_descriptionsAgree hr
  | keystream => exact dataCommand_descriptionsAgree (.inl rfl) hr
  | encrypt => exact dataCommand_descriptionsAgree (.inr (.inl rfl)) hr
  | decrypt => exact dataCommand_descriptionsAgree (.inr (.inr rfl)) hr

/-- Settles O50, by the case of the command; a data command by induction on its blocks. -/
theorem sequencerAgreesWithTheFunctions : Obligations.SequencerAgreesWithTheFunctions := by
  intro s t c _ ⟨_, hr⟩ hexec
  obtain ⟨t', u, ht', hu, hrun⟩ := command_descriptionsAgree c hr
  cases hexec.symm.trans ht'
  exact ⟨u, hu, hrun⟩

end Sys2Proof.Machine
end
section
/-! What an instruction can answer, said once: every next state of a host transaction (R178 to
R181), of a command (R172 to R177) and of a micro-operation (R120 to R127, R149, R150, R182), with
the condition under which it is the answer.  The rules about every instruction go through these
cases. -/

namespace Sys2Proof.Machine

variable {s t : State} {i : Instr} {c : Command}

/-! ### Commands -/

/-- The next states of a command. -/
inductive CommandResult (s : State) : Command → State → Prop
  | failed (c : Command) (e : ErrCode) (hp : s.precheck c = some e) : CommandResult s c (s.fail e)
  | constructed (hk : s.klen = 32) : CommandResult s .new (s.construct.complete 0)
  | blockComputed (hv : s.valid = true) (hl : s.params.level = .functional) :
      CommandResult s .block ({ s with blk := block s.k s.n s.ctr }.completeBlocks 0)
  | blockStarted (hv : s.valid = true) (hl : s.params.level = .sequenced) :
      CommandResult s .block (s.dispatch .block)
  | nothingAsked (c : Command) (hd : c = .keystream ∨ c = .encrypt ∨ c = .decrypt)
      (hp : s.precheckData = none) (h0 : s.nblk = 0) : CommandResult s c (s.complete s.len)
  | dataComputed (c : Command) (hd : c = .keystream ∨ c = .encrypt ∨ c = .decrypt)
      (hp : s.precheckData = none) (h0 : s.nblk ≠ 0) (hl : s.params.level = .functional) :
      CommandResult s c ((s.storeOut 0 (s.dataOut c)).completeBlocks s.len)
  | dataStarted (c : Command) (hd : c = .keystream ∨ c = .encrypt ∨ c = .decrypt)
      (hp : s.precheckData = none) (h0 : s.nblk ≠ 0) (hl : s.params.level = .sequenced) :
      CommandResult s c (s.dispatch c)

theorem precheck_dataCommand (hd : c = .keystream ∨ c = .encrypt ∨ c = .decrypt) (s : State) :
    s.precheck c = s.precheckData := by
  obtain rfl | rfl | rfl := hd <;> rfl

theorem execNew_result (h : execNew s = .next t) : CommandResult s .new t := by
  by_cases hk : s.klen = 32
  · cases (execNew_ok hk).symm.trans h
    exact .constructed hk
  · cases (execNew_fail hk).symm.trans h
    exact .failed .new _ (State.precheckNew_fail hk)

theorem execBlock_result (h : execBlock s = .next t) : CommandResult s .block t := by
  cases hv : s.valid with
  | false =>
    cases (execBlock_fail hv).symm.trans h
    exact .failed .block _ (State.precheckBlock_fail hv)
  | true =>
    cases hl : s.params.level with
    | functional =>
      cases (execBlock_functional hv hl).symm.trans h
      exact .blockComputed hv hl
    | sequenced =>
      cases (execBlock_sequenced hv hl).symm.trans h
      exact .blockStarted hv hl

theorem dataCommand_result (hd : c = .keystream ∨ c = .encrypt ∨ c = .decrypt) (s : State) :
    CommandResult s c (s.dataCommand c (s.dataOut c)) := by
  obtain ⟨e, hp, ht⟩ | ⟨hp, h0, ht⟩ | ⟨hp, h0, hl, ht⟩ | ⟨hp, h0, hl, ht⟩ :=
    s.dataCommand_cases c (s.dataOut c)
  · rw [ht]
    exact .failed c e ((precheck_dataCommand hd s).trans hp)
  · rw [ht]
    exact .nothingAsked c hd hp h0
  · rw [ht]
    exact .dataComputed c hd hp h0 hl
  · rw [ht]
    exact .dataStarted c hd hp h0 hl

/-- A command answers one of its results. -/
theorem exec_commandResult (h : exec c.instr s = .next t) : CommandResult s c t := by
  have data (hd : c = .keystream ∨ c = .encrypt ∨ c = .decrypt) : CommandResult s c t := by
    cases (exec_dataCommand hd s).symm.trans h
    exact dataCommand_result hd s
  cases c with
  | new => exact execNew_result h
  | block => exact execBlock_result h
  | keystream => exact data (.inl rfl)
  | encrypt => exact data (.inr (.inl rfl))
  | decrypt => exact data (.inr (.inr rfl))

/-! ### Host transactions -/

/-- The next states of a host transaction; a write of `CMD` answers what its command does on the
state with the write answered (R176). -/
inductive HostResult (s : State) : Instr → State → Prop
  | rd (r : Reg) : HostResult s (.rd r) (s.answerRead (s.readReg r))
  | wrReg (r : Reg) (v : Word) (hr : r ≠ .cmd) :
      HostResult s (.wr r v) (s.answerWrite.writeReg r v)
  | wrIllegal (w : Word) (hw : decodeCommand w = none) :
      HostResult s (.wr .cmd w) (s.answerWrite.raise .illegalCommand)
  | wrCommand (w : Word) {c : Command} {t : State} (hw : decodeCommand w = some c)
      (ht : CommandResult s.answerWrite c t) : HostResult s (.wr .cmd w) t
  | win (a : Word) (b : Byte) (ha : a.toNat < 2 ^ s.params.lenW) :
      HostResult s (.win a b) { s.answerWrite with inMem := s.inMem.write a.toNat b }
  | rout (a : Word) (ha : a.toNat < 2 ^ s.params.lenW) :
      HostResult s (.rout a) (s.answerRead ((s.outMem.read a.toNat).zeroExtend 32))

theorem execWr_result {r : Reg} {v : Word} (h : execWr r v s = .next t) :
    HostResult s (.wr r v) t := by
  by_cases hr : r = .cmd
  · subst hr
    rw [execWr_cmd] at h
    cases hw : decodeCommand v with
    | none =>
      cases (startCommand_illegal hw _).symm.trans h
      exact .wrIllegal v hw
    | some c =>
      rw [startCommand_legal hw] at h
      exact .wrCommand v hw (exec_commandResult h)
  · cases (execWr_reg hr v s).symm.trans h
    exact .wrReg r v hr

theorem execWin_result {a : Word} {b : Byte} (h : execWin a b s = .next t) :
    HostResult s (.win a b) t := by
  unfold execWin at h
  split at h
  · cases h
    exact .win a b ((addrInRange_iff _ _).1 ‹_›)
  · cases h

theorem execRout_result {a : Word} (h : execRout a s = .next t) : HostResult s (.rout a) t := by
  unfold execRout at h
  split at h
  · cases h
    exact .rout a ((addrInRange_iff _ _).1 ‹_›)
  · cases h

/-- A host transaction answers one of its results. -/
theorem exec_hostResult (hf : i.format = .host) (h : exec i s = .next t) : HostResult s i t := by
  cases i with
  | rd r =>
    cases h
    exact .rd r
  | wr r v => exact execWr_result h
  | win a b => exact execWin_result h
  | rout a => exact execRout_result h
  | _ => cases hf

/-! ### Micro-operations -/

/-- The next states of a micro-operation; `U_QRq` is the one the schedule word of `q` decodes to. -/
inductive MicroResult (s : State) : Instr → State → Prop
  | quarterRound (i : Instr) (q : Fin 8) (hi : decode .sched16 sched[q].word = .ok i) :
      MicroResult s i (s.quarterRound q)
  | built (hc : s.blockCounter ≤ 2 ^ 64 - 1) : MicroResult s .uInit s.buildBlock
  | added : MicroResult s .uFinal s.addSaved
  | emittedLast (hl : s.lastBlock = true) :
      MicroResult s .uEmit (s.storeBlock.completeBlocks s.finalOlen)
  | emittedMore (hl : s.lastBlock = false) :
      MicroResult s .uEmit { s.storeBlock with pos := s.pos.nextBlock }

theorem execUInit_result (h : execUInit s = .next t) : MicroResult s .uInit t := by
  by_cases hc : s.blockCounter ≤ 2 ^ 64 - 1
  · cases (execUInit_ok hc).symm.trans h
    exact .built hc
  · cases (execUInit_overflow hc).symm.trans h

theorem execUEmit_result (h : execUEmit s = .next t) : MicroResult s .uEmit t := by
  cases hl : s.lastBlock with
  | true =>
    cases (execUEmit_last hl).symm.trans h
    exact .emittedLast hl
  | false =>
    cases (execUEmit_more hl).symm.trans h
    exact .emittedMore hl

/-- The instruction of a schedule word is the quarter round of its entry (R94). -/
theorem exec_scheduled {q : Fin 8} (hi : decode .sched16 sched[q].word = .ok i)
    (h : exec i s = .next t) : MicroResult s i t := by
  have he : exec i s = .next (s.quarterRound q) := by
    fin_cases q <;> (cases hi; rfl)
  cases he.symm.trans h
  exact .quarterRound i q hi

/-! ### Every instruction -/

/-- The next states of an instruction. -/
inductive InstrResult (s : State) (i : Instr) (t : State) : Prop
  | host (h : HostResult s i t)
  | command (c : Command) (hi : i = c.instr) (h : CommandResult s c t)
  | micro (h : MicroResult s i t)

/-- An instruction answers one of its results. -/
theorem exec_result (h : exec i s = .next t) : InstrResult s i t := by
  cases i with
  | rd r => exact .host (exec_hostResult rfl h)
  | wr r v => exact .host (exec_hostResult rfl h)
  | win a b => exact .host (exec_hostResult rfl h)
  | rout a => exact .host (exec_hostResult rfl h)
  | new => exact .command .new rfl (exec_commandResult h)
  | block => exact .command .block rfl (exec_commandResult h)
  | keystream => exact .command .keystream rfl (exec_commandResult h)
  | encrypt => exact .command .encrypt rfl (exec_commandResult h)
  | decrypt => exact .command .decrypt rfl (exec_commandResult h)
  | uQr0 => exact .micro (exec_scheduled (q := 0) rfl h)
  | uQr1 => exact .micro (exec_scheduled (q := 1) rfl h)
  | uQr2 => exact .micro (exec_scheduled (q := 2) rfl h)
  | uQr3 => exact .micro (exec_scheduled (q := 3) rfl h)
  | uQr4 => exact .micro (exec_scheduled (q := 4) rfl h)
  | uQr5 => exact .micro (exec_scheduled (q := 5) rfl h)
  | uQr6 => exact .micro (exec_scheduled (q := 6) rfl h)
  | uQr7 => exact .micro (exec_scheduled (q := 7) rfl h)
  | uInit => exact .micro (execUInit_result h)
  | uFinal =>
    cases h
    exact .micro .added
  | uEmit => exact .micro (execUEmit_result h)

end Sys2Proof.Machine
end
section
/-! The invariant of the state (R28, R29, R32, R50, R177, R184) at reset and along every step: the
widths and byte spaces first, then the sequencer position, then one step. -/

namespace Sys2Proof.Machine

variable {s t : State} {i : Instr} {c : Command}

/-! ### Widths and byte spaces -/

/-- The invariant without its part about the position: what `LEN_W` bounds. -/
def State.fits (s : State) : Prop := s.paramsLegal ∧ s.lengthsFit ∧ s.spacesFit

theorem State.inv_iff : s.Inv ↔ s.fits ∧ s.positionLegal := by
  simp only [State.Inv, State.fits, and_assoc]

/-- Only the parameters, `LEN`, `OLEN`, `IN` and `OUT` are bounded by `LEN_W`. -/
theorem State.fits.of_eq (h : s.fits) (hp : t.params = s.params) (hl : t.len = s.len)
    (ho : t.olen = s.olen) (hi : t.inMem = s.inMem) (hm : t.outMem = s.outMem) : t.fits := by
  simpa only [State.fits, State.paramsLegal, State.lengthsFit, State.spacesFit, hp, hl, ho, hi, hm]
    using h

theorem State.fits.with_olen (h : s.fits) {v : Word} (hv : v.toNat < 2 ^ s.params.lenW)
    (hp : t.params = s.params) (hl : t.len = s.len) (ho : t.olen = v) (hi : t.inMem = s.inMem)
    (hm : t.outMem = s.outMem) : t.fits := by
  obtain ⟨hparams, ⟨hlen, -⟩, hspaces⟩ := h
  subst ho
  have hs : State.fits { s with olen := t.olen } := ⟨hparams, ⟨hlen, hv⟩, hspaces⟩
  exact hs.of_eq hp hl rfl hi hm

theorem State.fits.len_lt (h : s.fits) : s.len.toNat < 2 ^ s.params.lenW := by
  obtain ⟨-, ⟨hlen, -⟩, -⟩ := h
  exact hlen

theorem State.zero_lt_bound (s : State) : (0 : Word).toNat < 2 ^ s.params.lenW := Nat.two_pow_pos _

theorem State.fits.raise (h : s.fits) (e : ErrCode) : (s.raise e).fits :=
  h.with_olen (State.zero_lt_bound s) rfl rfl rfl rfl rfl

theorem State.fits.fail (h : s.fits) (e : ErrCode) : (s.fail e).fits :=
  h.with_olen (State.zero_lt_bound s) rfl rfl rfl rfl rfl

theorem State.fits.complete (h : s.fits) {v : Word} (hv : v.toNat < 2 ^ s.params.lenW) :
    (s.complete v).fits := h.with_olen hv rfl rfl rfl rfl rfl

theorem State.fits.completeBlocks (h : s.fits) {v : Word} (hv : v.toNat < 2 ^ s.params.lenW) :
    (s.completeBlocks v).fits := h.with_olen hv rfl rfl rfl rfl rfl

/-- A store of bytes below `LEN` fits. -/
theorem State.fits.storeOut (h : s.fits) {a : Nat} {bs : List Byte}
    (hb : a + bs.length ≤ s.len.toNat) : (s.storeOut a bs).fits := by
  obtain ⟨hparams, hlengths, hinWf, hinIn, houtWf, houtIn⟩ := h
  have hlen := hlengths.1
  exact ⟨hparams, hlengths, hinWf, hinIn, Memory.wf_writeBytes _ _ _ houtWf,
    Memory.within_writeBytes _ _ _ _ houtIn (hb.trans hlen.le)⟩

theorem keepLow_lt (lenW : Nat) (v : Word) : (keepLow lenW v).toNat < 2 ^ lenW := by
  rw [keepLow, BitVec.toNat_ofNat]
  exact (Nat.mod_le _ _).trans_lt (Nat.mod_lt _ (Nat.two_pow_pos _))

theorem State.fits.writeReg (h : s.fits) (r : Reg) (v : Word) : (s.writeReg r v).fits := by
  cases r with
  | len =>
    obtain ⟨hparams, ⟨-, holen⟩, hspaces⟩ := h
    exact ⟨hparams, ⟨keepLow_lt _ _, holen⟩, hspaces⟩
  | _ => exact h

theorem State.fits.writeIn (h : s.fits) {a : Nat} (ha : a < 2 ^ s.params.lenW) (b : Byte) :
    State.fits { s with inMem := s.inMem.write a b } := by
  obtain ⟨hparams, hlengths, hinWf, hinIn, hout⟩ := h
  exact ⟨hparams, hlengths, Memory.wf_write _ _ _ hinWf, Memory.within_write _ _ _ _ hinIn ha, hout⟩

theorem emitBytes_length (s : State) : s.emitBytes.length = s.keptBytes := by
  have hk : s.keptBytes ≤ 64 := Nat.min_le_left _ _
  unfold State.emitBytes
  split <;> simp [hk]

/-- `U_EMIT` stores below `LEN` when `BI` counts a block of the command. -/
theorem State.fits.storeBlock (h : s.fits) (hc : s.inCommand) : s.storeBlock.fits := by
  unfold State.storeBlock
  split
  · exact h
  · next ho =>
    obtain ⟨-, ⟨hb, -⟩ | ⟨-, hbi, -⟩⟩ := hc
    · exact absurd hb ho
    · apply h.storeOut
      rw [emitBytes_length, State.keptBytes]
      simp only [State.nblk, Machine.nblk] at hbi
      omega

/-! ### The sequencer position -/

/-- A legal position: idle, or a block of a command in progress, with `DR` and `QI` counting in the
rounds only. -/
theorem State.positionLegal_iff : s.positionLegal ↔ s.pos = Pos.idle ∨
    s.pos.ph ≠ .idle ∧ s.inCommand ∧ (s.pos.ph = .round ∨ s.pos.dr = 0 ∧ s.pos.qi = 0) := by
  have hne : s.pos.ph ≠ .idle → s.pos ≠ Pos.idle := fun hp he => hp (by rw [he]; rfl)
  unfold State.positionLegal
  cases hp : s.pos.ph with
  | idle => simp
  | _ => simp [hne (by simp [hp])]

theorem State.fits.inv_of_idle (h : s.fits) (hp : s.pos = Pos.idle) : s.Inv :=
  State.inv_iff.2 ⟨h, State.positionLegal_iff.2 (.inl hp)⟩

theorem State.fits.inv_of_inCommand (h : s.fits) (hp : s.pos.ph ≠ .idle) (hc : s.inCommand)
    (h0 : s.pos.ph = .round ∨ s.pos.dr = 0 ∧ s.pos.qi = 0) : s.Inv :=
  State.inv_iff.2 ⟨h, State.positionLegal_iff.2 (.inr ⟨hp, hc, h0⟩)⟩

theorem State.Inv.pos_eq_idle (h : s.Inv) (hp : s.pos.ph = .idle) : s.pos = Pos.idle := by
  obtain ⟨-, hpos⟩ := State.inv_iff.1 h
  obtain hpos | ⟨hne, -⟩ := State.positionLegal_iff.1 hpos
  · exact hpos
  · exact absurd hp hne

theorem State.Inv.inCommand (h : s.Inv) (hp : s.pos.ph ≠ .idle) : s.inCommand := by
  obtain ⟨-, hpos⟩ := State.inv_iff.1 h
  obtain hidle | ⟨-, hc, -⟩ := State.positionLegal_iff.1 hpos
  · exact absurd (by rw [hidle]; rfl) hp
  · exact hc

/-- A command in progress goes on at another position in the same block. -/
theorem State.inCommand.of_bi_eq (h : s.inCommand) (hv : t.valid = s.valid) (ho : t.opc = s.opc)
    (hl : t.len = s.len) (hc : t.ctr = s.ctr) (hb : t.pos.bi = s.pos.bi) : t.inCommand := by
  simpa only [State.inCommand, State.nblk, hv, ho, hl, hc, hb] using h

theorem State.lastBlock_false_iff :
    s.lastBlock = false ↔ s.opc ≠ Command.block.opcode ∧ s.pos.bi + 1 < s.nblk := by
  simp [State.lastBlock]

/-- When `U_EMIT` finds another block, the command goes on in it. -/
theorem State.inCommand.nextBlock (h : s.inCommand) (hl : s.lastBlock = false) :
    State.inCommand { s.storeBlock with pos := s.pos.nextBlock } := by
  obtain ⟨hne, hlt⟩ := State.lastBlock_false_iff.1 hl
  obtain ⟨hv, ⟨hb, -⟩ | ⟨hop, -, hc⟩⟩ := h
  · exact absurd hb hne
  · have hs : State.inCommand { s with pos := s.pos.nextBlock } := ⟨hv, .inr ⟨hop, hlt, hc⟩⟩
    exact hs.of_bi_eq s.storeBlock_valid s.storeBlock_opc s.storeBlock_len s.storeBlock_ctr rfl

/-- After a quarter round, the rounds of the same block or its final addition. -/
theorem Pos.afterQr_ph (p : Pos) (q : Fin 8) :
    (p.afterQr q).ph = .round ∨
      (p.afterQr q).ph = .final ∧ (p.afterQr q).dr = 0 ∧ (p.afterQr q).qi = 0 := by
  unfold Pos.afterQr
  split
  · exact .inl rfl
  · split
    · exact .inl rfl
    · exact .inr ⟨rfl, rfl, rfl⟩

/-! ### A command -/

theorem State.precheckData_valid (h : s.precheckData = none) : s.valid = true := by
  obtain ⟨-, hp⟩ | ⟨-, -, hp⟩ | ⟨hv, -⟩ := s.precheckData_cases
  · cases h.symm.trans hp
  · cases h.symm.trans hp
  · exact hv

theorem dispatch_dataCommand_inCommand (hd : c = .keystream ∨ c = .encrypt ∨ c = .decrypt)
    (hp : s.precheckData = none) (h0 : s.nblk ≠ 0) : (s.dispatch c).inCommand := by
  refine ⟨State.precheckData_valid hp, .inr ⟨?_, Nat.pos_of_ne_zero h0,
    State.counterOverflows_of_precheckData hp⟩⟩
  obtain rfl | rfl | rfl := hd
  · exact .inl rfl
  · exact .inr (.inl rfl)
  · exact .inr (.inr rfl)

/-- A command ends idle or starts the sequencer on its first block. -/
theorem CommandResult.inv (h : CommandResult s c t) (hs : s.fits) : t.Inv := by
  cases h with
  | failed _ e => exact (hs.fail e).inv_of_idle rfl
  | constructed =>
    have hc : s.construct.fits := hs
    exact (hc.complete (State.zero_lt_bound s)).inv_of_idle rfl
  | blockComputed =>
    have hb : State.fits { s with blk := Machine.block s.k s.n s.ctr } := hs
    exact (hb.completeBlocks (State.zero_lt_bound s)).inv_of_idle rfl
  | blockStarted hv =>
    exact State.fits.inv_of_inCommand hs nofun ⟨hv, .inl ⟨rfl, rfl⟩⟩ (.inr ⟨rfl, rfl⟩)
  | nothingAsked => exact (hs.complete hs.len_lt).inv_of_idle rfl
  | dataComputed =>
    have ho : (s.storeOut 0 (s.dataOut c)).fits := hs.storeOut (by simp)
    exact (ho.completeBlocks hs.len_lt).inv_of_idle rfl
  | dataStarted _ hd hp h0 =>
    exact State.fits.inv_of_inCommand hs nofun (dispatch_dataCommand_inCommand hd hp h0)
      (.inr ⟨rfl, rfl⟩)

/-! ### One step -/

theorem State.resetTo_inv (p : Params) (d : ResetDraw) (h1 : 1 ≤ p.lenW) (h32 : p.lenW ≤ 32) :
    (State.resetTo p d).Inv := by
  obtain ⟨hinWf, hinIn⟩ := Memory.ofCells_canonical p.lenW d.inCells
  obtain ⟨houtWf, houtIn⟩ := Memory.ofCells_canonical p.lenW d.outCells
  exact ⟨⟨h1, h32⟩, ⟨Nat.two_pow_pos _, Nat.two_pow_pos _⟩, ⟨hinWf, hinIn, houtWf, houtIn⟩, rfl⟩

theorem State.Inv.applyReset (h : s.Inv) (d : ResetDraw) : (s.applyReset d).Inv := by
  obtain ⟨⟨h1, h32⟩, -⟩ := h
  exact State.resetTo_inv s.params d h1 h32

/-- A host transaction between commands. -/
theorem HostResult.inv (h : HostResult s i t) (hs : s.fits) (hp : s.pos = Pos.idle) : t.Inv := by
  have hw : s.answerWrite.fits := hs
  cases h with
  | rd => exact State.fits.inv_of_idle hs hp
  | wrReg r v => exact (hw.writeReg r v).inv_of_idle ((State.writeReg_pos _ r v).trans hp)
  | wrIllegal => exact (hw.raise _).inv_of_idle rfl
  | wrCommand _ _ ht => exact ht.inv hw
  | win a b ha => exact State.fits.inv_of_idle (hw.writeIn ha b) hp
  | rout => exact State.fits.inv_of_idle hs hp

/-- A word of the host port decodes to a host transaction (R81). -/
theorem format_of_decode_host {w : Nat} (h : decode .host w = .ok i) : i.format = .host := by
  unfold decode at h
  split at h
  · simp only [decodeHost] at h
    split at h
    · split at h <;> cases h
      rfl
    · split at h <;> cases h
      rfl
    · cases h
      rfl
    · cases h
      rfl
    · cases h
  · cases h

/-- Between commands a step waits or runs one host transaction (R64). -/
theorem step_idle_cases (hr : s.resetIn = none) (hp : s.pos.ph = .idle) (h : step s = .next t) :
    t = s ∨ ∃ i, HostResult s.accept i t := by
  cases hq : s.port with
  | nil =>
    have hf : s.fetch = none := by simp only [State.fetch, hp, hq, List.head?_nil, Option.map_none]
    simp only [step, hr, hf] at h
    cases h
    exact .inl rfl
  | cons w rest =>
    have hf : s.fetch = some (.host, w.toNat) := by
      simp only [State.fetch, hp, hq, List.head?_cons, Option.map_some]
    simp only [step, hr, hf] at h
    cases hd : decode .host w.toNat with
    | error e =>
      rw [hd] at h
      cases h
    | ok i =>
      rw [hd] at h
      exact .inr ⟨i, exec_hostResult (format_of_decode_host hd) h⟩

/-! ### The micro-operations -/

theorem State.fits.buildBlock_inv (h : s.fits) (hc : s.inCommand) : s.buildBlock.Inv := by
  have hf : s.buildBlock.fits := h.of_eq s.buildBlock_params s.buildBlock_len s.buildBlock_olen
    s.buildBlock_inMem s.buildBlock_outMem
  have hc' : s.buildBlock.inCommand := hc.of_bi_eq s.buildBlock_valid s.buildBlock_opc
    s.buildBlock_len s.buildBlock_ctr rfl
  exact hf.inv_of_inCommand (by simp [Pos.afterInit]) hc' (.inl rfl)

theorem State.fits.quarterRound_inv (h : s.fits) (hc : s.inCommand) (q : Fin 8) :
    (s.quarterRound q).Inv := by
  have hf : (s.quarterRound q).fits := h.of_eq (s.quarterRound_params q) (s.quarterRound_len q)
    (s.quarterRound_olen q) (s.quarterRound_inMem q) (s.quarterRound_outMem q)
  have hc' : (s.quarterRound q).inCommand := hc.of_bi_eq (s.quarterRound_valid q)
    (s.quarterRound_opc q) (s.quarterRound_len q) (s.quarterRound_ctr q) (Pos.afterQr_bi s.pos q)
  obtain hph | ⟨hph, h0⟩ := Pos.afterQr_ph s.pos q
  · exact hf.inv_of_inCommand (by simp [hph]) hc' (.inl hph)
  · exact hf.inv_of_inCommand (by simp [hph]) hc' (.inr h0)

theorem State.fits.addSaved_inv (h : s.fits) (hc : s.inCommand) : s.addSaved.Inv := by
  have hf : s.addSaved.fits := h.of_eq s.addSaved_params s.addSaved_len s.addSaved_olen
    s.addSaved_inMem s.addSaved_outMem
  have hc' : s.addSaved.inCommand := hc.of_bi_eq s.addSaved_valid s.addSaved_opc
    s.addSaved_len s.addSaved_ctr rfl
  exact hf.inv_of_inCommand (by simp [Pos.afterFinal]) hc' (.inr ⟨rfl, rfl⟩)

theorem State.fits.emitLast_inv (h : s.fits) (hc : s.inCommand) :
    (s.storeBlock.completeBlocks s.finalOlen).Inv := by
  have hv : s.finalOlen.toNat < 2 ^ s.storeBlock.params.lenW := by
    rw [State.storeBlock_params, State.finalOlen]
    split
    · exact State.zero_lt_bound s
    · exact h.len_lt
  exact ((h.storeBlock hc).completeBlocks hv).inv_of_idle rfl

theorem State.fits.emitMore_inv (h : s.fits) (hc : s.inCommand) (hl : s.lastBlock = false) :
    State.Inv { s.storeBlock with pos := s.pos.nextBlock } := by
  have hf : State.fits { s.storeBlock with pos := s.pos.nextBlock } := h.storeBlock hc
  exact hf.inv_of_inCommand (by simp [Pos.nextBlock]) (hc.nextBlock hl) (.inr ⟨rfl, rfl⟩)

/-- A step of a command in progress. -/
theorem step_inCommand_inv (hs : s.Inv) (hr : s.resetIn = none) (hp : s.pos.ph ≠ .idle)
    (h : step s = .next t) : t.Inv := by
  obtain ⟨hfits, -⟩ := State.inv_iff.1 hs
  have hc := hs.inCommand hp
  obtain ⟨-, -, rfl⟩ | ⟨-, rfl⟩ | ⟨-, rfl⟩ | ⟨-, -, rfl⟩ | ⟨-, hl, rfl⟩ :=
    step_inCommand_cases hr hp h
  · exact hfits.buildBlock_inv hc
  · exact hfits.quarterRound_inv hc s.pos.qi
  · exact hfits.addSaved_inv hc
  · exact hfits.emitLast_inv hc
  · exact hfits.emitMore_inv hc hl

/-! ### Every step -/

/-- Settles O48: a step is a reset, a host transaction or a wait between commands, or a
micro-operation of a command in progress, and each keeps the invariant. -/
theorem stepKeepsTheInvariant : Obligations.StepKeepsTheInvariant := by
  intro s t hs h
  cases hr : s.resetIn with
  | some d =>
    cases (step_reset hr).symm.trans h
    exact hs.applyReset d
  | none =>
    by_cases hp : s.pos.ph = .idle
    · obtain rfl | ⟨i, ht⟩ := step_idle_cases hr hp h
      · exact hs
      · have ha : s.accept.fits := (State.inv_iff.1 hs).1.of_eq s.accept_params s.accept_len
          s.accept_olen s.accept_inMem s.accept_outMem
        exact ht.inv ha (s.accept_pos.trans (hs.pos_eq_idle hp))
    · exact step_inCommand_inv hs hr hp h

/-- Settles O47: after a reset the position is idle, where the working state is free. -/
theorem invariantHoldsAtReset : Obligations.InvariantHoldsAtReset := by
  have general (p : Params) (d : ResetDraw) (h1 : 1 ≤ p.lenW) (h32 : p.lenW ≤ 32) :
      (State.resetTo p d).Inv ∧ (State.resetTo p d).workMatches :=
    ⟨State.resetTo_inv p d h1 h32, trivial⟩
  exact ⟨general Config.params ResetDraw.named (by decide) (by decide), general⟩

end Sys2Proof.Machine
end
section
/-! What each instruction may write (R21 to R30, R52, R53), what a reset leaves (R38, U2), and what
the host can read (R39, R233). -/

namespace Sys2Proof.Machine

variable {s t : State} {i : Instr} {c : Command}

/-! ### Reset -/

/-- Settles O13: the next step is the reset; each of its fields is the table's or the draw's. -/
theorem resetLeavesTheSpecifiedValues : Obligations.ResetLeavesTheSpecifiedValues := by
  intro s d hr
  refine ⟨_, step_reset hr, ?_⟩
  simp [State.applyReset, State.resetTo, State.statusWord, State.errf, Pos.idle]

/-- A canonical list extended at its end: the last address is above the others. -/
theorem Memory.wf_concat {m : Memory} {x : Host.Cell} (h : Memory.wf (m ++ [x]) = true) :
    m.wf = true ∧ (∀ d ∈ m, d.1 < x.1) ∧ x.2 ≠ Memory.fill := by
  induction m with
  | nil =>
    obtain ⟨hx, -, -⟩ := (Memory.wf_cons x []).1 h
    exact ⟨rfl, nofun, hx⟩
  | cons y m ih =>
    obtain ⟨hy, hall, hm⟩ := (Memory.wf_cons y (m ++ [x])).1 h
    obtain ⟨hwf, hlt, hx⟩ := ih hm
    simp only [List.all_append, List.all_cons, List.all_nil, Bool.and_true, Bool.and_eq_true,
      decide_eq_true_eq] at hall
    obtain ⟨hym, hyx⟩ := hall
    exact ⟨(Memory.wf_cons y m).2 ⟨hy, hym, hwf⟩, List.forall_mem_cons.2 ⟨hyx, hlt⟩, hx⟩

/-- A write above every listed address extends the list. -/
theorem Memory.write_above {m : Memory} {a : Nat} {v : Byte} (h : ∀ d ∈ m, d.1 < a)
    (hv : v ≠ Memory.fill) : m.write a v = m ++ [(a, v)] := by
  induction m with
  | nil => rw [Memory.write, if_neg hv, List.nil_append]
  | cons y m ih =>
    obtain ⟨hy, hm⟩ := List.forall_mem_cons.1 h
    rw [Memory.write, if_neg (Nat.not_lt_of_gt hy), if_neg (Nat.ne_of_gt hy), ih hm,
      List.cons_append]

theorem Memory.ofCells_concat {lenW : Nat} (m : Memory) {x : Host.Cell} (h : x.1 < 2 ^ lenW) :
    Memory.ofCells lenW (m ++ [x]) = (Memory.ofCells lenW m).write x.1 x.2 := by
  rw [Memory.ofCells, List.foldl_concat, if_pos h, ← Memory.ofCells]

/-- Settles O14, by induction on the cells from the last one: each is written above the earlier
ones. -/
theorem resetCanDrawAnyContents : Obligations.ResetCanDrawAnyContents := by
  intro lenW m hwf hin
  induction m using List.reverseRecOn with
  | nil => rfl
  | append_singleton m x ih =>
    obtain ⟨hm, hlt, hx⟩ := Memory.wf_concat hwf
    simp only [Memory.within, List.all_append, List.all_cons, List.all_nil, Bool.and_true,
      Bool.and_eq_true, decide_eq_true_eq] at hin
    obtain ⟨hin, hxin⟩ := hin
    rw [Memory.ofCells_concat m hxin, ih hm hin, Memory.write_above hlt hx]

/-! ### What the host reads -/

/-- A register's word is a function of what the host can see. -/
theorem readReg_eq_of_sameToHost {s' : State} (h : s.sameToHost s') (r : Reg) :
    s.readReg r = s'.readReg r := by
  obtain ⟨-, hvalid, herr, holen, hklen, hlen, hctrLo, hctrHi, hnonceLo, hnonceHi, hblk, -⟩ := h
  cases r with
  | status => simp only [State.readReg, State.statusWord, State.errf, hvalid, herr]
  | err => simp only [State.readReg, herr]
  | olen => exact holen
  | klen => exact hklen
  | len => exact hlen
  | ctrLo => exact hctrLo
  | ctrHi => exact hctrHi
  | nonceLo => exact hnonceLo
  | nonceHi => exact hnonceHi
  | blk j => simp only [State.readReg, hblk]
  | cmd => rfl
  | keyin => rfl

theorem execRout_rdata {a : Word} (h : exec (.rout a) s = .next t) :
    t.rdata = (s.outMem.read a.toNat).zeroExtend 32 := by
  cases exec_hostResult rfl h with
  | rout => rfl

/-- Settles O54: `RD` and `ROUT` answer from what the host can see. -/
theorem hostReadsHideTheSecrets : Obligations.HostReadsHideTheSecrets := by
  intro s s' h
  constructor
  · intro r
    exact ⟨_, _, rfl, rfl, readReg_eq_of_sameToHost h r⟩
  · intro a t t' ht ht'
    obtain ⟨-, -, -, -, -, -, -, -, -, -, -, hout⟩ := h
    rw [execRout_rdata ht, execRout_rdata ht', hout]

/-! ### The writers of `K` and `N` -/

/-- A command word has no bits but its opcode (R84, R85). -/
theorem word_eq_of_decodeCommand {w : Word} (h : decodeCommand w = some c) : w = c.word := by
  unfold decodeCommand at h
  split at h
  · next hz =>
    have hw : w = BitVec.ofNat 32 (w.extractLsb' 0 4).toNat := by
      have hz' : (w.extractLsb' 4 28).toNat = 0 := by rw [hz]; rfl
      apply BitVec.eq_of_toNat_eq
      simp only [BitVec.extractLsb'_toNat, BitVec.toNat_ofNat, Nat.shiftRight_eq_div_pow] at hz' ⊢
      omega
    split at h <;> cases h
    all_goals exact hw.trans (congrArg (BitVec.ofNat 32) ‹_›)
  · cases h

/-- An instruction runs a command, by its own row or by the write of its word (R176), or leaves `K`,
`N` and, but for `U_EMIT`, `OUT` and `BLK`. -/
theorem exec_runs_or_keeps (h : exec i s = .next t) :
    (∃ c, i = c.instr ∧ CommandResult s c t ∨
      i = .wr .cmd c.word ∧ CommandResult s.answerWrite c t) ∨
    (t.k = s.k ∧ t.n = s.n) ∧ (t.outMem = s.outMem ∧ t.blk = s.blk ∨ i = .uEmit) := by
  cases exec_result h with
  | command c hi hr => exact .inl ⟨c, .inl ⟨hi, hr⟩⟩
  | host hr =>
    cases hr with
    | wrCommand w hw ht => exact .inl ⟨_, .inr ⟨by rw [word_eq_of_decodeCommand hw], ht⟩⟩
    | _ => exact .inr (by simp)
  | micro hr =>
    cases hr <;> exact .inr (by simp)

theorem CommandResult.key_nonce (h : CommandResult s c t) :
    t.k = s.k ∧ t.n = s.n ∨ c = .new ∧ s.klen = 32 := by
  cases h with
  | constructed hk => exact .inr ⟨rfl, hk⟩
  | _ => exact .inl (by simp)

/-- Settles O55: of all results only that of a `NEW` that constructs writes them. -/
theorem onlyNewWritesTheInstance : Obligations.OnlyNewWritesTheInstance := by
  intro i s t h hne
  have hch : ¬ (t.k = s.k ∧ t.n = s.n) := not_and_or.2 hne
  obtain ⟨c, ⟨rfl, hr⟩ | ⟨rfl, hr⟩⟩ | ⟨hk, -⟩ := exec_runs_or_keeps h
  · obtain ⟨rfl, hk⟩ := hr.key_nonce.resolve_left hch
    exact ⟨.inl rfl, hk⟩
  · obtain ⟨rfl, hk⟩ := hr.key_nonce.resolve_left hch
    exact ⟨.inr rfl, hk⟩
  · exact absurd hk hch

/-! ### The writers of the operands and of `IN` -/

/-- The staging and operand registers are the same (R24 to R28). -/
def State.sameOperands (s t : State) : Prop :=
  t.keyin = s.keyin ∧ t.klen = s.klen ∧ t.nonceLo = s.nonceLo ∧ t.nonceHi = s.nonceHi ∧
    t.ctrLo = s.ctrLo ∧ t.ctrHi = s.ctrHi ∧ t.len = s.len

theorem CommandResult.operands (h : CommandResult s c t) :
    s.sameOperands t ∧ t.inMem = s.inMem := by
  cases h <;> simp [State.sameOperands]

theorem MicroResult.operands (h : MicroResult s i t) : s.sameOperands t ∧ t.inMem = s.inMem := by
  cases h <;> simp [State.sameOperands]

theorem HostResult.operands (h : HostResult s i t) (hi : ∀ r v, i = .wr r v → r = .cmd) :
    s.sameOperands t := by
  cases h with
  | wrReg r v hr => exact absurd (hi r v rfl) hr
  | wrCommand _ _ ht => exact ht.operands.1
  | _ => exact ⟨rfl, rfl, rfl, rfl, rfl, rfl, rfl⟩

theorem HostResult.inMem (h : HostResult s i t) (hi : ∀ a b, i ≠ .win a b) :
    t.inMem = s.inMem := by
  cases h with
  | win a b => exact absurd rfl (hi a b)
  | wrReg r v => exact State.writeReg_inMem _ r v
  | wrCommand _ _ ht => exact ht.operands.2
  | _ => rfl

/-- Settles O56: commands and micro-operations keep them all, host transactions all but the one they
write. -/
theorem commandsLeaveTheOperands : Obligations.CommandsLeaveTheOperands := by
  intro i s t h
  cases exec_result h with
  | host hr => exact ⟨hr.operands, hr.inMem⟩
  | command c _ hr =>
    obtain ⟨hops, hin⟩ := hr.operands
    exact ⟨fun _ => hops, fun _ => hin⟩
  | micro hr =>
    obtain ⟨hops, hin⟩ := hr.operands
    exact ⟨fun _ => hops, fun _ => hin⟩

/-! ### The writers of `OUT` and `BLK` -/

theorem CommandResult.outMem (h : CommandResult s c t) :
    t.outMem = s.outMem ∨ c = .keystream ∨ c = .encrypt ∨ c = .decrypt := by
  cases h with
  | dataComputed _ hd => exact .inr hd
  | _ => exact .inl (by simp)

theorem CommandResult.blk (h : CommandResult s c t) : t.blk = s.blk ∨ c = .block := by
  cases h with
  | blockComputed => exact .inr rfl
  | _ => exact .inl (by simp)

/-- Settles O57: the results that write `OUT` or `BLK` are those of the data commands, of `BLOCK`
and of `U_EMIT`. -/
theorem onlyResultsAreWritten : Obligations.OnlyResultsAreWritten := by
  intro i s t h
  obtain ⟨c, ⟨rfl, hr⟩ | ⟨rfl, hr⟩⟩ | ⟨-, ⟨hout, hblk⟩ | rfl⟩ := exec_runs_or_keeps h
  · constructor
    · intro hne
      obtain rfl | rfl | rfl := hr.outMem.resolve_left hne <;> simp [Command.instr]
    · intro hne
      obtain rfl := hr.blk.resolve_left hne
      exact .inl rfl
  · constructor
    · intro hne
      obtain rfl | rfl | rfl := hr.outMem.resolve_left hne <;> simp [Command.word, Command.opcode]
    · intro hne
      obtain rfl := hr.blk.resolve_left hne
      exact .inr (.inr rfl)
  · exact ⟨absurd hout, absurd hblk⟩
  · simp

end Sys2Proof.Machine
end
section
/-! The host port at its edge (R62, R64, R81, R236): which transaction a step takes, and the byte
addresses it refuses. -/

namespace Sys2Proof.Machine

variable {s : State} {i : Instr}

/-! ### The host's next transaction (R64) -/

section

variable {w : HostWord} {rest : List HostWord} (hs : s.ready) (hq : s.port = w :: rest)
include hs hq

theorem State.ready.fetch_eq : s.fetch = some (.host, w.toNat) := by
  obtain ⟨hp, -⟩ := hs
  simp only [State.fetch, hp, Pos.idle, hq, List.head?_cons, Option.map_some]

theorem State.ready.accept_eq : s.accept = { s with port := rest } := by
  obtain ⟨hp, -⟩ := hs
  simp only [State.accept, hp, Pos.idle, hq, List.tail_cons]

theorem step_transaction (hd : decode .host w.toNat = .ok i) :
    step s = exec i { s with port := rest } := by
  have hr : s.resetIn = none := hs.2
  simp only [step, hr, hs.fetch_eq hq, hs.accept_eq hq, hd]

theorem step_reserved {e : DecodeError} (hd : decode .host w.toNat = .error e) :
    step s = .refused (DecodeError.refusal e) := by
  have hr : s.resetIn = none := hs.2
  simp only [step, hr, hs.fetch_eq hq, hd]

end

/-- Settles O9: the word fetched is the head of the port; of the decoder's errors only a reserved
register has a name of its own. -/
theorem stepRunsTheHostTransaction : Obligations.StepRunsTheHostTransaction := by
  intro s w rest hs hq
  cases hd : decode .host w.toNat with
  | ok i => exact step_transaction hs hq hd
  | error e =>
    have hstep := step_reserved hs hq hd
    cases e <;> exact hstep

/-! ### Addresses out of range (R62) -/

theorem addrInRange_eq_false {lenW : Nat} {a : Word} (h : 2 ^ lenW ≤ a.toNat) :
    addrInRange lenW a = false := decide_eq_false (Nat.not_lt.2 h)

theorem execWin_outOfRange {a : Word} (b : Byte) (h : 2 ^ s.params.lenW ≤ a.toNat) :
    execWin a b s = .refused .addressOutOfRange := by
  rw [execWin, addrInRange_eq_false h, if_neg Bool.false_ne_true]

theorem execRout_outOfRange {a : Word} (h : 2 ^ s.params.lenW ≤ a.toNat) :
    execRout a s = .refused .addressOutOfRange := by
  rw [execRout, addrInRange_eq_false h, if_neg Bool.false_ne_true]

/-- Settles O22: neither range check passes at or above the bound. -/
theorem addressesOutOfRangeAreRefused : Obligations.AddressesOutOfRangeAreRefused :=
  fun _ _ b h => ⟨execWin_outOfRange b h, execRout_outOfRange h⟩

end Sys2Proof.Machine
end
section
/-! A command issued again (R60): each of its results is a state it keeps, because the pre-check that
failed fails again and the result it computed stands already in its registers and in `OUT`. -/

namespace Sys2Proof.Machine

variable {s t : State} {c : Command}

/-- The command changes nothing in this state, hidden state apart. -/
def State.keptBy (s : State) (c : Command) : Prop :=
  ∃ u, exec c.instr s = .next u ∧ u = s.hiddenAs u

/-! ### A failed command -/

/-- A command whose pre-check fails only raises its error (R177, R228). -/
theorem exec_command_fail {e : ErrCode} (hp : s.precheck c = some e) :
    exec c.instr s = .next (s.fail e) := by
  cases c with
  | new =>
    have hnew : s.precheckNew = some e := hp
    rw [Command.instr, exec, execNew, hnew]
  | block =>
    have hblock : s.precheckBlock = some e := hp
    rw [Command.instr, exec, execBlock, hblock]
  | keystream => exact exec_dataCommand_fail (.inl rfl) hp
  | encrypt => exact exec_dataCommand_fail (.inr (.inl rfl)) hp
  | decrypt => exact exec_dataCommand_fail (.inr (.inr rfl)) hp

/-- The key length is a matter of `NEW` alone (R221, R227). -/
theorem State.eq_new_of_precheck (hp : s.precheck c = some .invalidKeyLength) : c = .new := by
  have data (h : s.precheckData = some .invalidKeyLength) : c = .new := by
    obtain ⟨-, h'⟩ | ⟨-, -, h'⟩ | ⟨-, -, h'⟩ := s.precheckData_cases <;> cases h'.symm.trans h
  cases c with
  | new => rfl
  | block =>
    have hblock : s.precheckBlock = some .invalidKeyLength := hp
    simp [State.precheckBlock] at hblock
  | _ => exact data hp

theorem State.precheck_congr (hk : t.klen = s.klen) (hv : t.valid = s.valid) (hl : t.len = s.len)
    (hc : t.ctr = s.ctr) (c : Command) : t.precheck c = s.precheck c := by
  cases c <;> simp only [State.precheck, State.precheckNew, State.precheckBlock,
    State.precheckData, hk, hv, hl, hc]

/-- The pre-check that failed fails again: of what it reads the failure writes `VALID` only, and
that for a key length, where `VALID` is not read. -/
theorem State.precheck_fail {e : ErrCode} (hp : s.precheck c = some e) :
    (s.fail e).precheck c = some e := by
  by_cases he : e = .invalidKeyLength
  · subst he
    obtain rfl := State.eq_new_of_precheck hp
    exact hp
  · have hv : (s.fail e).valid = s.valid := if_neg he
    rw [State.precheck_congr (s.fail_klen e) hv (s.fail_len e) (s.fail_ctr e), hp]

/-- Raising the error a failed command has raised leaves what it left. -/
theorem State.fail_again (s : State) (e : ErrCode) :
    (s.fail e).fail e = (s.fail e).hiddenAs ((s.fail e).fail e) := by
  cases e <;> simp [State.fail, State.raise, State.unlatchOpc, State.hiddenAs]

theorem State.fail_keptBy {e : ErrCode} (hp : s.precheck c = some e) : (s.fail e).keptBy c :=
  ⟨_, exec_command_fail (State.precheck_fail hp), s.fail_again e⟩

/-! ### A command that succeeded -/

/-- The state in which a command that succeeded ends, with this `OLEN` (R183). -/
def State.endedWith (s : State) (olen : Word) : Prop :=
  s.pos = Pos.idle ∧ s.err = .ok ∧ s.olen = olen

theorem State.complete_endedWith (s : State) (v : Word) : (s.complete v).endedWith v :=
  ⟨rfl, rfl, rfl⟩

theorem State.completeBlocks_endedWith (s : State) (v : Word) :
    (s.completeBlocks v).endedWith v := ⟨rfl, rfl, rfl⟩

theorem State.endedWith.complete_eq {v : Word} (h : s.endedWith v) :
    s.complete v = s.hiddenAs (s.complete v) := by
  obtain ⟨hp, he, ho⟩ := h
  simp only [State.complete, State.unlatchOpc, State.hiddenAs, hp, he, ho]

theorem State.endedWith.completeBlocks_eq {v : Word} (h : s.endedWith v) :
    s.completeBlocks v = s.hiddenAs (s.completeBlocks v) := by
  obtain ⟨hp, he, ho⟩ := h
  simp only [State.completeBlocks, State.complete, State.dropWork, State.unlatchOpc,
    State.hiddenAs, hp, he, ho]

/-- `NEW` in the state of the instance it constructs (R172). -/
theorem keptBy_new (hk : s.klen = 32) (hs : s.construct = s) (he : s.endedWith 0) :
    s.keptBy .new := by
  have hexec : exec Command.new.instr s = .next (s.construct.complete 0) := execNew_ok hk
  rw [hs] at hexec
  exact ⟨_, hexec, he.complete_eq⟩

/-- `BLOCK` with its block in `BLK` (R151). -/
theorem keptBy_block (hv : s.valid = true) (hl : s.params.level = .functional)
    (hb : Machine.block s.k s.n s.ctr = s.blk) (he : s.endedWith 0) : s.keptBy .block := by
  have hexec : exec Command.block.instr s =
      .next ({ s with blk := Machine.block s.k s.n s.ctr }.completeBlocks 0) :=
    execBlock_functional hv hl
  rw [hb] at hexec
  exact ⟨_, hexec, he.completeBlocks_eq⟩

/-- A store of the bytes that are there already changes nothing. -/
theorem Memory.writeBytes_again {m : Memory} (h : m.wf = true) (a : Nat) (bs : List Byte) :
    (m.writeBytes a bs).writeBytes a bs = m.writeBytes a bs := by
  have hw := Memory.wf_writeBytes m a bs h
  apply Memory.ext_read _ _ (Memory.wf_writeBytes _ a bs hw) hw
  intro x
  rw [Memory.read_writeBytes _ a x bs hw]
  split
  · next hx => rw [Memory.read_writeBytes m a x bs h, dif_pos hx]
  · rfl

/-- What a data command writes does not depend on `OUT`. -/
theorem State.storeOut_dataOut (s : State) (a : Nat) (bs : List Byte) (c : Command) :
    (s.storeOut a bs).dataOut c = s.dataOut c := by
  simp [State.dataOut, State.keystreamOut, State.processOut]

theorem State.completeBlocks_dataOut (s : State) (v : Word) (c : Command) :
    (s.completeBlocks v).dataOut c = s.dataOut c := by
  simp [State.dataOut, State.keystreamOut, State.processOut]

section

variable (hd : c = .keystream ∨ c = .encrypt ∨ c = .decrypt) (hp : s.precheckData = none)
  (he : s.endedWith s.len)
include hd hp he

theorem keptBy_emptyRequest (h0 : s.nblk = 0) : s.keptBy c :=
  ⟨_, exec_dataCommand_empty hd hp h0, he.complete_eq⟩

/-- A data command with its bytes in `OUT` (R173 to R175). -/
theorem keptBy_dataCommand (h0 : s.nblk ≠ 0) (hl : s.params.level = .functional)
    (ho : s.outMem.writeBytes 0 (s.dataOut c) = s.outMem) : s.keptBy c := by
  have hexec := exec_dataCommand_functional hd hp h0 hl
  rw [State.storeOut, ho] at hexec
  exact ⟨_, hexec, he.completeBlocks_eq⟩

end

/-! ### Every result -/

/-- Every result of a command is a state the command keeps.  `generalize` names what the command
computed, so that comparing two states does not compute it. -/
theorem CommandResult.keptBy (h : CommandResult s c t) (hl : s.params.level = .functional)
    (hout : s.outMem.wf = true) : t.keptBy c := by
  cases h with
  | failed _ e hp => exact State.fail_keptBy hp
  | constructed hk => exact keptBy_new hk rfl (State.complete_endedWith _ _)
  | blockComputed hv =>
    generalize hw : Machine.block s.k s.n s.ctr = w
    exact keptBy_block hv hl hw (State.completeBlocks_endedWith _ _)
  | nothingAsked _ hd hp h0 => exact keptBy_emptyRequest hd hp (State.complete_endedWith _ _) h0
  | dataComputed _ hd hp h0 =>
    generalize ho : s.dataOut c = out
    have hsame : ((s.storeOut 0 out).completeBlocks s.len).dataOut c = out := by
      rw [State.completeBlocks_dataOut, State.storeOut_dataOut, ho]
    refine keptBy_dataCommand hd hp (State.completeBlocks_endedWith _ _) h0 hl ?_
    rw [hsame]
    exact Memory.writeBytes_again hout 0 out
  | blockStarted _ hq => cases hl.symm.trans hq
  | dataStarted _ _ _ _ hq => cases hl.symm.trans hq

/-- Settles O59: every result of a command is a state the command keeps; for a data command because
a second store of the same bytes changes nothing. -/
theorem repeatingACommandChangesNothingMore : Obligations.RepeatingACommandChangesNothingMore := by
  intro s t c hs hl _ hexec
  obtain ⟨-, -, ⟨-, -, hout, -⟩, -⟩ := hs
  exact (exec_commandResult hexec).keptBy hl hout

end Sys2Proof.Machine
end

section
/-! The word formats (R80 to R86, R93 to R95): the register map, the fields of a `HOST` word, the
command words, what a word that decodes has in common with the encoder's word, and the rows of the
opcode table. -/

namespace Sys2Proof

variable {f : Format} {w : Nat} {i : Instr}

/-! ### The register map (R82, R86) -/

theorem number_of_regOfNumber {n : Nat} {r : Reg} (h : regOfNumber n = some r) : r.number = n := by
  unfold regOfNumber at h
  split at h
  case h_11 =>
    split at h
    · cases h
      simp only [Reg.number]
      omega
    · split at h <;> cases h
      simp only [Reg.number]
      omega
  all_goals
    cases h
    rfl

theorem regOfNumber_eq_some_iff (n : Nat) (r : Reg) : regOfNumber n = some r ↔ r.number = n :=
  ⟨number_of_regOfNumber, fun h => h ▸ regOfNumber_number r⟩

/-- The numbers no register has (R86); above 63 there is none. -/
theorem regOfNumber_eq_none_iff (n : Nat) :
    regOfNumber n = none ↔ (10 ≤ n ∧ n ≤ 15) ∨ (24 ≤ n ∧ n ≤ 31) ∨ 48 ≤ n := by
  unfold regOfNumber
  split
  case h_11 =>
    split
    · simp only [reduceCtorEq, false_iff]
      omega
    · split
      · simp only [reduceCtorEq, false_iff]
        omega
      · simp only [imp_false, true_iff] at *
        omega
  all_goals simp

/-- Settles O5: the map read forwards, backwards, and where it names nothing. -/
theorem registerNumbersFollowTheMap : Obligations.RegisterNumbersFollowTheMap := by
  refine ⟨⟨rfl, rfl, rfl, rfl, rfl, rfl, rfl, rfl, rfl, rfl, fun _ => rfl, fun _ => rfl⟩,
    regOfNumber_eq_some_iff, fun n hn => ?_⟩
  rw [regOfNumber_eq_none_iff]
  omega

/-! ### `HOST` words by their fields (R80, R81) -/

theorem decodeReg_eq_none {addr : Word} (h : 64 ≤ addr.toNat) : decodeReg addr = none := by
  rw [decodeReg_eq, if_neg (Nat.not_lt.2 h)]

/-- An address that decodes to a register is the register's number. -/
theorem eq_number_of_decodeReg {addr : Word} {r : Reg} (h : decodeReg addr = some r) :
    addr = BitVec.ofNat 32 r.number := by
  rw [decodeReg_eq] at h
  split at h
  · rw [number_of_regOfNumber h, BitVec.ofNat_toNat, BitVec.setWidth_eq]
  · cases h

section

variable {addr : Word} (wdata : Word)

theorem decodeHost_rd {r : Reg} (h : decodeReg addr = some r) :
    decodeHost (hostWord 0 false addr wdata) = .ok (.rd r) := by
  simp [decodeHost, h]

theorem decodeHost_wr {r : Reg} (h : decodeReg addr = some r) :
    decodeHost (hostWord 0 true addr wdata) = .ok (.wr r wdata) := by
  simp [decodeHost, h]

theorem decodeHost_reservedRegister (we : Bool) (h : decodeReg addr = none) :
    decodeHost (hostWord 0 we addr wdata) = .error .reservedRegister := by
  cases we <;> simp [decodeHost, h]

theorem decodeHost_win (addr : Word) :
    decodeHost (hostWord 1 true addr wdata) = .ok (.win addr (wdata.extractLsb' 0 8)) := by
  simp [decodeHost]

theorem decodeHost_rout (addr : Word) :
    decodeHost (hostWord 2 false addr wdata) = .ok (.rout addr) := by
  simp [decodeHost]

end

/-- The combinations of `sel` and `we` that name no transaction (R81). -/
theorem decodeHost_reservedTransaction {sel : BitVec 2} {we : Bool} (addr wdata : Word)
    (h0 : sel ≠ 0) (h1 : ¬(sel = 1 ∧ we = true)) (h2 : ¬(sel = 2 ∧ we = false)) :
    decodeHost (hostWord sel we addr wdata) = .error .reservedTransaction := by
  simp only [decodeHost, hostWord_sel, hostWord_we]
  split
  · next hs => exact absurd (BitVec.eq_of_toNat_eq hs) h0
  · next hs => exact absurd (BitVec.eq_of_toNat_eq hs) h0
  · next hs => exact absurd ⟨BitVec.eq_of_toNat_eq hs, rfl⟩ h1
  · next hs => exact absurd ⟨BitVec.eq_of_toNat_eq hs, rfl⟩ h2
  · rfl

/-- Settles O4: one equation of the decoder for each branch of the table. -/
theorem hostWordsDecodeByTheirFields : Obligations.HostWordsDecodeByTheirFields := by
  intro sel we addr wdata
  rw [decode_host]
  by_cases h0 : sel = 0
  · rw [if_pos h0, h0]
    by_cases ha : 64 ≤ addr.toNat
    · rw [if_pos ha, decodeHost_reservedRegister wdata we (decodeReg_eq_none ha)]
    · have hreg : decodeReg addr = regOfNumber addr.toNat := by
        rw [decodeReg_eq, if_pos (Nat.not_le.1 ha)]
      rw [if_neg ha]
      cases hr : regOfNumber addr.toNat with
      | none => exact decodeHost_reservedRegister wdata we (hreg.trans hr)
      | some r =>
        cases we with
        | false => exact decodeHost_rd wdata (hreg.trans hr)
        | true => exact decodeHost_wr wdata (hreg.trans hr)
  · rw [if_neg h0]
    split_ifs with h1 h2
    · rw [h1.1, h1.2, decodeHost_win]
    · rw [h2.1, h2.2, decodeHost_rout]
    · exact decodeHost_reservedTransaction addr wdata h0 h1 h2

/-! ### Command words (R83 to R85) -/

@[simp] theorem decodeCommand_word (c : Command) : decodeCommand c.word = some c := by
  cases c <;> rfl

/-- Settles O6: a word is a command's only if it is that command's one word. -/
theorem commandWordsAreOneToFive : Obligations.CommandWordsAreOneToFive := by
  intro w
  split_ifs with h1 h2 h3 h4 h5
  · exact h1 ▸ decodeCommand_word .new
  · exact h2 ▸ decodeCommand_word .block
  · exact h3 ▸ decodeCommand_word .keystream
  · exact h4 ▸ decodeCommand_word .encrypt
  · exact h5 ▸ decodeCommand_word .decrypt
  · cases hd : decodeCommand w with
    | none => rfl
    | some c =>
      have hw := Machine.word_eq_of_decodeCommand hd
      cases c with
      | new => exact absurd hw h1
      | block => exact absurd hw h2
      | keystream => exact absurd hw h3
      | encrypt => exact absurd hw h4
      | decrypt => exact absurd hw h5

/-- A command's word in its own row of the table. -/
theorem encode_instr (c : Command) : encode c.instr = c.word.toNat := by cases c <;> rfl

theorem format_instr (c : Command) : c.instr.format = .cmd := by cases c <;> rfl

theorem decode_command (c : Command) : decode .cmd (encode c.instr) = .ok c.instr := by
  simp only [encode_instr, decode, Format.width, if_pos c.word.isLt, BitVec.ofNat_toNat,
    BitVec.setWidth_eq, decodeCommand_word]

/-! ### Decoding after encoding -/

theorem lt_of_decode (h : decode f w = .ok i) : w < 2 ^ f.width := by
  by_contra hw
  simp only [decode, if_neg hw, reduceCtorEq] at h

/-- The low byte of a byte zero extended is the byte. -/
theorem extractLsb'_zeroExtend (b : Byte) :
    (BitVec.zeroExtend 32 b : Word).extractLsb' 0 8 = b := by
  apply BitVec.eq_of_toNat_eq
  rw [BitVec.extractLsb'_toNat, Nat.shiftRight_zero, BitVec.toNat_setWidth]
  omega

theorem decode_encode (i : Instr) : decode i.format (encode i) = .ok i := by
  cases i with
  | rd r => exact (decode_host _).trans (decodeHost_rd 0 (decodeReg_number r))
  | wr r v => exact (decode_host _).trans (decodeHost_wr v (decodeReg_number r))
  | win a b =>
    rw [encode, Instr.format, decode_host, decodeHost_win, extractLsb'_zeroExtend]
  | rout a => exact (decode_host _).trans (decodeHost_rout 0 a)
  | new => exact decode_command .new
  | block => exact decode_command .block
  | keystream => exact decode_command .keystream
  | encrypt => exact decode_command .encrypt
  | decrypt => exact decode_command .decrypt
  | _ => rfl

/-- Settles O1: each format's round trip; a word that decodes fits its format. -/
theorem decodeOfEncodeIsTheInstruction : Obligations.DecodeOfEncodeIsTheInstruction :=
  fun i => ⟨decode_encode i, lt_of_decode (decode_encode i)⟩

/-! ### Encoding after decoding -/

/-- A `HOST` word that decodes agrees with the encoder's word but for ignored bits of `wdata`. -/
theorem encode_of_decodeHost {w : HostWord} (h : decodeHost w = .ok i) :
    ∃ v, encode i = (hostWord w.sel w.we w.addr v).toNat := by
  unfold decodeHost at h
  split at h
  · next hs hw =>
    split at h <;> cases h
    next r hr =>
      exact ⟨0, by rw [encode, BitVec.eq_of_toNat_eq (y := 0) hs, hw, eq_number_of_decodeReg hr]⟩
  · next hs hw =>
    split at h <;> cases h
    next r hr =>
      exact ⟨w.wdata, by
        rw [encode, BitVec.eq_of_toNat_eq (y := 0) hs, hw, eq_number_of_decodeReg hr]⟩
  · next hs hw =>
    cases h
    exact ⟨(w.wdata.extractLsb' 0 8).zeroExtend 32, by
      rw [encode, BitVec.eq_of_toNat_eq (y := 1) hs, hw]⟩
  · next hs hw =>
    cases h
    exact ⟨0, by rw [encode, BitVec.eq_of_toNat_eq (y := 2) hs, hw]⟩
  · cases h

/-- Every `HOST` word is built from its fields. -/
theorem hostWord_fields (w : HostWord) : hostWord w.sel w.we w.addr w.wdata = w := by
  apply BitVec.eq_of_getLsbD_eq
  intro i hi
  simp only [hostWord_getLsbD, HostWord.sel, HostWord.we, HostWord.addr, HostWord.wdata,
    BitVec.getLsbD_extractLsb']
  split_ifs with h1 h2 h3
  · simp [h1]
  · rw [decide_eq_true (by omega : i - 32 < 32), Bool.true_and]
    congr 1
    omega
  · rw [h3]
  · rw [decide_eq_true (by omega : i - 65 < 2), Bool.true_and]
    congr 1
    omega

/-- Outside the host port no bit of a word is ignored: a word that decodes is the encoder's. -/
theorem eq_encode_of_decode (hf : f ≠ .host) (h : decode f w = .ok i) :
    i.format = f ∧ w = encode i := by
  have hlt := lt_of_decode h
  simp only [decode, if_pos hlt] at h
  cases f with
  | host => exact absurd rfl hf
  | cmd =>
    cases hd : decodeCommand (BitVec.ofNat 32 w) with
    | none => simp only [hd, reduceCtorEq] at h
    | some c =>
      simp only [hd, Except.ok.injEq] at h
      subst h
      have hw : (BitVec.ofNat 32 w).toNat = w :=
        (BitVec.toNat_ofNat w 32).trans (Nat.mod_eq_of_lt hlt)
      exact ⟨format_instr c, by rw [encode_instr, ← Machine.word_eq_of_decodeCommand hd, hw]⟩
  | sched16 =>
    simp only [decodeSched] at h
    split at h <;> cases h <;> exact ⟨rfl, rfl⟩
  | seq =>
    simp only [decodeSeq] at h
    split at h <;> cases h <;> exact ⟨rfl, rfl⟩

/-! ### The rows of the opcode table -/

theorem row_format (i : Instr) : i.row.format = i.format := by cases i <;> rfl

theorem row_accepts_encode (i : Instr) : i.row.accepts (encode i) = true := by
  cases i with
  | rd r => exact (Laws.RowMatch.rd r).2
  | wr r v => exact (Laws.RowMatch.wr r v).2
  | win a b => exact (Laws.RowMatch.win a b).2
  | rout a => exact (Laws.RowMatch.rout a).2
  | _ => rfl

/-- No row of the host port looks at `wdata`: its mask, by fields, has none. -/
theorem exists_host_mask (hi : i.format = .host) :
    ∃ sel we addr, i.row.mask = (hostWord sel we addr 0).toNat := by
  cases i with
  | rd | wr => exact ⟨3, true, 0xFFFFFFC0, Laws.host_reg_mask⟩
  | win | rout => exact ⟨3, true, 0, Laws.host_mem_mask⟩
  | _ => cases hi

theorem row_accepts_congr_wdata (hi : i.format = .host) (sel : BitVec 2) (we : Bool)
    (addr v v' : Word) :
    i.row.accepts (hostWord sel we addr v).toNat =
      i.row.accepts (hostWord sel we addr v').toNat := by
  obtain ⟨sel', we', addr', hm⟩ := exists_host_mask hi
  rw [Row.accepts, Row.accepts, hm, ← BitVec.toNat_and, ← BitVec.toNat_and, Laws.hostWord_and,
    Laws.hostWord_and, Laws.masked_zero, Laws.masked_zero]

theorem row_accepts_of_decode_host {w : HostWord} (h : decode .host w.toNat = .ok i) :
    i.row.accepts w.toNat = true := by
  obtain ⟨v, hv⟩ := encode_of_decodeHost ((decode_host w).symm.trans h)
  rw [← hostWord_fields w,
    row_accepts_congr_wdata (Machine.format_of_decode_host h) w.sel w.we w.addr w.wdata v, ← hv]
  exact row_accepts_encode i

/-- Settles O2: a word that decodes is the encoder's, which is of the row, up to bits the row does
not look at. -/
theorem decodedWordsMatchTheirOpcodeRow : Obligations.DecodedWordsMatchTheirOpcodeRow := by
  intro f w i h
  suffices i.format = f ∧ i.row.accepts w = true by
    obtain ⟨hi, ha⟩ := this
    exact ⟨hi, (row_format i).trans hi, ha⟩
  by_cases hf : f = .host
  · subst hf
    have hw : (BitVec.ofNat 67 w).toNat = w := by
      exact (BitVec.toNat_ofNat w 67).trans (Nat.mod_eq_of_lt (lt_of_decode h))
    rw [← hw] at h ⊢
    exact ⟨Machine.format_of_decode_host h, row_accepts_of_decode_host h⟩
  · obtain ⟨hi, rfl⟩ := eq_encode_of_decode hf h
    exact ⟨hi, row_accepts_encode i⟩

/-- The bits that tell the rows of a format apart: every row's mask has them. -/
def Format.selector : Format → Nat
  | .host => 0x70000000000000000
  | .cmd => 0xFFFFFFFF
  | .sched16 => 0xFFFF
  | .seq => 0x7

/-- What tells a row from the others. -/
def Row.key (r : Row) : Format × Nat := (r.format, r.value &&& r.format.selector)

/-- The rows of the opcode table, in its order. -/
def opcodeRows : List Row :=
  [Instr.rd .cmd, .wr .cmd 0, .win 0 0, .rout 0, .new, .block, .keystream, .encrypt, .decrypt,
    .uQr0, .uQr1, .uQr2, .uQr3, .uQr4, .uQr5, .uQr6, .uQr7, .uInit, .uFinal, .uEmit].map Instr.row

theorem row_mem_opcodeRows (i : Instr) : i.row ∈ opcodeRows := by
  cases i <;> simp [opcodeRows, Instr.row]

/-- The keys of the twenty rows are distinct. -/
theorem nodup_keys : (opcodeRows.map Row.key).Nodup := by decide

theorem mask_and_selector :
    ∀ r ∈ opcodeRows, r.mask &&& r.format.selector = r.format.selector := by decide

/-- A word of a row shows the row's key. -/
theorem key_of_accepts (h : i.row.accepts w = true) :
    i.row.key = (i.row.format, w &&& i.row.format.selector) := by
  have hv : w &&& i.row.mask = i.row.value := beq_iff_eq.1 h
  rw [Row.key, ← hv, Nat.and_assoc, mask_and_selector _ (row_mem_opcodeRows i)]

/-- Settles O3: both rows have the key the word shows. -/
theorem opcodeRowsDoNotOverlap : Obligations.OpcodeRowsDoNotOverlap := by
  intro i j w hf hi hj
  have hkey : i.row.key = j.row.key := by rw [key_of_accepts hi, key_of_accepts hj, hf]
  exact List.inj_on_of_nodup_map nodup_keys (row_mem_opcodeRows i) (row_mem_opcodeRows j) hkey

/-! ### The schedule, and words written out (R94, R115) -/

/-- Settles O7: the constants of the schedule, evaluated. -/
theorem scheduleWordsPackTheGroups : Obligations.ScheduleWordsPackTheGroups := ⟨rfl, rfl⟩

/-- Settles O8: the decoder, run on each word. -/
theorem wordsWrittenOutDecode : Obligations.WordsWrittenOutDecode := by
  unfold Obligations.WordsWrittenOutDecode
  decide

end Sys2Proof
end
section
/-! The datapath (R110 to R127): the bits of a rotation, the four words a quarter round writes and the
twelve it keeps, the order of the schedule, and the micro-operations `U_QR0` to `U_QR7`. -/

namespace Sys2Proof.Machine

/-! ### Rotation (R112) -/

/-- A bit that stays below 32 moves up, and one that does not comes in from below. -/
theorem rotl32_getLsbD (x : Word) (n : Nat) {i : Nat} (h : i < 32) :
    (rotl32 x n).getLsbD ((i + n % 32) % 32) = x.getLsbD i := by
  have hn : n % 32 < 32 := Nat.mod_lt n (by decide)
  rw [rotl32_eq_rotateLeft, BitVec.getLsbD_rotateLeft]
  by_cases hw : i + n % 32 < 32
  · simp [Nat.mod_eq_of_lt hw, hw]
  · have hm : (i + n % 32) % 32 = i + n % 32 - 32 := by omega
    have hlt : i + n % 32 - 32 < n % 32 := by omega
    have hi : 32 - n % 32 + (i + n % 32 - 32) = i := by omega
    simp [hm, hlt, hi]

/-- Settles O37, bit by bit; the model makes a rotation by a multiple of 32 a no-op. -/
theorem rotateMovesEveryBit : Obligations.RotateMovesEveryBit :=
  ⟨fun x n _ hi => rotl32_getLsbD x n hi, fun _ => ⟨rfl, rfl⟩⟩

/-! ### The words of a quarter round (R113 to R115) -/

/-- The indices of a group, in the order of the quarter round's arguments. -/
def Group.indices (g : Group) : List (Fin 16) := [g.a, g.b, g.c, g.d]

theorem Group.mem_indices {g : Group} {j : Fin 16} :
    j ∈ g.indices ↔ j = g.a ∨ j = g.b ∨ j = g.c ∨ j = g.d := by
  simp [Group.indices]

theorem Group.not_mem_indices {g : Group} {j : Fin 16} :
    j ∉ g.indices ↔ j ≠ g.a ∧ j ≠ g.b ∧ j ≠ g.c ∧ j ≠ g.d := by
  simp only [Group.mem_indices, not_or, ne_eq]

theorem qrs_getElem_of_nodup {g : Group} (hg : g.indices.Nodup) (x : Vector Word 16) :
    ((qrs x g)[g.a], (qrs x g)[g.b], (qrs x g)[g.c], (qrs x g)[g.d]) =
      qr x[g.a] x[g.b] x[g.c] x[g.d] := by
  obtain ⟨⟨hab, hac, had⟩, ⟨hbc, hbd⟩, hcd⟩ :
      (g.a ≠ g.b ∧ g.a ≠ g.c ∧ g.a ≠ g.d) ∧ (g.b ≠ g.c ∧ g.b ≠ g.d) ∧ g.c ≠ g.d := by
    simpa [Group.indices] using hg
  simp [qrs_getElem, Fin.val_inj, hab.symm, hac.symm, had.symm, hbc.symm, hbd.symm, hcd.symm]

theorem qrs_getElem_of_not_mem {g : Group} {j : Fin 16} (h : j ∉ g.indices) (x : Vector Word 16) :
    (qrs x g)[j] = x[j] := by
  obtain ⟨ha, hb, hc, hd⟩ := Group.not_mem_indices.1 h
  simp [qrs_getElem, Fin.val_inj, ha.symm, hb.symm, hc.symm, hd.symm]

theorem sched_indices_nodup : ∀ q : Fin 8, sched[q].indices.Nodup := by decide

/-- Settles O38: the core's rotation is the machine word's, and `qrs` is known index by index. -/
theorem qrsChangesOnlyItsFourWords : Obligations.QrsChangesOnlyItsFourWords := by
  refine ⟨fun a b c d => ?_, fun x a b c d hg => ?_, sched_indices_nodup⟩
  · simp only [qr, rotl32_eq_rotateLeft]
    rfl
  · exact ⟨qrs_getElem_of_nodup (g := ⟨a, b, c, d⟩) hg x,
      fun _ hj => qrs_getElem_of_not_mem (g := ⟨a, b, c, d⟩) hj x⟩

/-! ### The order of the schedule (R118, R119) -/

/-- What a quarter round leaves at `j` depends on the words of its group and on word `j` only. -/
theorem qrs_getElem_congr {g : Group} {x y : Vector Word 16} (h : ∀ i ∈ g.indices, x[i] = y[i])
    {j : Fin 16} (hj : x[j] = y[j]) : (qrs x g)[j] = (qrs y g)[j] := by
  simp only [Group.mem_indices, forall_eq_or_imp, forall_eq] at h
  obtain ⟨ha, hb, hc, hd⟩ := h
  simp only [Fin.getElem_fin] at ha hb hc hd hj
  simp only [Fin.getElem_fin, qrs_getElem, ha, hb, hc, hd, hj]

/-- At an index outside `h`, a quarter round on `h` first makes no difference to one on `g`. -/
theorem qrs_qrs_getElem_of_not_mem {g h : Group} (hd : g.indices.Disjoint h.indices)
    (x : Vector Word 16) {j : Fin 16} (hj : j ∉ h.indices) : (qrs (qrs x h) g)[j] = (qrs x g)[j] :=
  qrs_getElem_congr (fun _ hi => qrs_getElem_of_not_mem (hd hi) x) (qrs_getElem_of_not_mem hj x)

/-- Quarter rounds on disjoint groups commute: no index is in both, and at an index outside one
group only the other quarter round counts. -/
theorem qrs_comm {g h : Group} (hd : g.indices.Disjoint h.indices) (x : Vector Word 16) :
    qrs (qrs x g) h = qrs (qrs x h) g := by
  suffices ∀ j : Fin 16, (qrs (qrs x g) h)[j] = (qrs (qrs x h) g)[j] from
    Vector.ext fun j hj => this ⟨j, hj⟩
  intro j
  by_cases hj : j ∈ h.indices
  · have hg : j ∉ g.indices := hd.symm hj
    rw [qrs_getElem_of_not_mem hg, qrs_qrs_getElem_of_not_mem hd.symm x hg]
  · rw [qrs_getElem_of_not_mem hj, qrs_qrs_getElem_of_not_mem hd x hj]

/-- No index is in two groups of one pass (R115). -/
theorem sched_indices_disjoint : ∀ p q : Fin 8, p ≠ q → (p.val < 4 ↔ q.val < 4) →
    sched[p].indices.Disjoint sched[q].indices := by
  simp only [List.disjoint_left]
  decide

/-- Settles O40: different groups of a pass are disjoint. -/
theorem quarterRoundsOfAPassCommute : Obligations.QuarterRoundsOfAPassCommute :=
  fun x p q hpq hpass => qrs_comm (sched_indices_disjoint p q hpq hpass) x

/-- Settles O39: the two passes, written out, are the fold; with the passes swapped, the state array
of the zero key, nonce and counter leads elsewhere (T-DR2). -/
theorem doubleRoundIsTheScheduleInOrder : Obligations.DoubleRoundIsTheScheduleInOrder := by
  refine ⟨fun _ => rfl, initState (Vector.replicate 8 0) (Vector.replicate 2 0) 0, ?_⟩
  decide

/-! ### The micro-operations (R120 to R127) -/

/-- An instruction whose meaning is quarter round `q` has the effect of entry `q` of the schedule. -/
theorem quarterRoundEffect_of_exec {i : Instr} (q : Fin 8)
    (hi : ∀ s, exec i s = .next (s.quarterRound q)) :
    QuarterRoundEffect i q sched[q].a sched[q].b sched[q].c sched[q].d := by
  intro s
  refine ⟨s.quarterRound q, hi s, rfl, qrs_getElem_of_nodup (sched_indices_nodup q) s.x,
    fun j ha hb hc hd => qrs_getElem_of_not_mem (Group.not_mem_indices.2 ⟨ha, hb, hc, hd⟩) s.x,
    Pos.afterQr_bi s.pos q, fun h => ?_, fun h hd => ?_, fun h hd => ?_⟩
  · simp [Pos.afterQr_lt _ _ h]
  · simp [Pos.afterQr_again _ _ h hd]
  · simp [Pos.afterQr_done _ _ h hd]

/-- Settles O32: each is the quarter round of its schedule entry. -/
theorem quarterRoundMicroOperations : Obligations.QuarterRoundMicroOperations :=
  ⟨quarterRoundEffect_of_exec 0 fun _ => rfl, quarterRoundEffect_of_exec 1 fun _ => rfl,
    quarterRoundEffect_of_exec 2 fun _ => rfl, quarterRoundEffect_of_exec 3 fun _ => rfl,
    quarterRoundEffect_of_exec 4 fun _ => rfl, quarterRoundEffect_of_exec 5 fun _ => rfl,
    quarterRoundEffect_of_exec 6 fun _ => rfl, quarterRoundEffect_of_exec 7 fun _ => rfl⟩

end Sys2Proof.Machine
end
section
/-! The block function (R140 to R151): the state array and its serialisation, the results of `BLOCK`,
`U_INIT` and `U_FINAL`, and the working state along every step (R189). -/

namespace Sys2Proof.Machine

variable {s t : State} {i : Instr} {c : Command}

/-! ### The state array and its bytes (R144, R147) -/

/-- Words 4 to 11 are the key. -/
theorem initState_key (k : Vector Word 8) (n : Vector Word 2) (ctr : Nat) {j : Nat} (h : j < 8) :
    (initState k n ctr)[4 + j] = k[j] := by
  match j, h with
  | 0, _ | 1, _ | 2, _ | 3, _ | 4, _ | 5, _ | 6, _ | 7, _ => rfl

/-- Words 12 and 13 are the counter's halves. -/
theorem initState_counter (k : Vector Word 8) (n : Vector Word 2) {ctr : Nat} (h : ctr < 2 ^ 64) :
    u64 (initState k n ctr)[12] (initState k n ctr)[13] = ctr := u64_lo32_hi32 ctr h

/-- Settles O41: the bytes of a list of words, for the sixteen of a block. -/
theorem serializeIsLittleEndian : Obligations.SerializeIsLittleEndian :=
  fun w => ⟨serialize_length w, fun j k hj hk =>
    flatMap_bytes32_getElem w.toList j k (by simpa using hj) hk⟩

/-! ### `BLOCK`, `U_INIT` and `U_FINAL` (R149 to R151) -/

/-- Settles O28: beside the block, the command writes `ERR` and `OLEN` and ends at the idle position
it started from. -/
theorem blockWritesTheBlockWords : Obligations.BlockWritesTheBlockWords := by
  intro s hl hv hp
  have hended :
      State.endedWith { s with blk := block s.k s.n s.ctr, err := .ok, olen := 0 } 0 :=
    ⟨hp, rfl, rfl⟩
  exact ⟨_, execBlock_functional hv hl, hended.completeBlocks_eq,
    fun j => feedForward_getElem _ _ j.val j.isLt⟩

/-- Settles O33: `U_INIT` answers the state array of the block's counter, or stops beyond the top. -/
theorem initBuildsTheStateArray : Obligations.InitBuildsTheStateArray := by
  intro s
  constructor
  · intro hc
    exact ⟨s.buildBlock, execUInit_ok hc, rfl, rfl, rfl, rfl, rfl, rfl,
      fun _ hj => initState_key _ _ _ hj, initState_counter _ _ (Nat.lt_of_le_pred (by decide) hc),
      rfl, rfl⟩
  · exact fun hc => execUInit_overflow (Nat.not_le.2 hc)

/-- Settles O34: the feed-forward, word by word. -/
theorem finalAddsTheInitialState : Obligations.FinalAddsTheInitialState := by
  intro s
  refine ⟨s.addSaved, rfl, rfl, fun j => ?_, rfl⟩
  simp [BitVec.toNat_add]

/-! ### The working state, phase by phase (R189) -/

/-- Between commands and before `U_INIT` the working state is free. -/
theorem State.workMatches_of_free (h : s.pos.ph = .idle ∨ s.pos.ph = .init) : s.workMatches := by
  obtain h | h := h <;> simp only [State.workMatches, h]

theorem State.workMatches_round_iff (h : s.pos.ph = .round) :
    s.workMatches ↔ s.saved = initState s.k s.n s.blockCounter ∧
      s.x = quarterRounds s.pos.qi (doubleRounds s.pos.dr (initState s.k s.n s.blockCounter)) := by
  simp only [State.workMatches, h]

theorem State.workMatches_final_iff (h : s.pos.ph = .final) :
    s.workMatches ↔ s.saved = initState s.k s.n s.blockCounter ∧
      s.x = rounds (initState s.k s.n s.blockCounter) := by
  simp only [State.workMatches, h]

theorem State.workMatches_emit_iff (h : s.pos.ph = .emit) :
    s.workMatches ↔ s.x = block s.k s.n s.blockCounter := by
  simp only [State.workMatches, h]

@[simp] theorem State.quarterRound_blockCounter (s : State) (q : Fin 8) :
    (s.quarterRound q).blockCounter = s.blockCounter := by
  simp [State.blockCounter]

/-! ### The micro-operations -/

/-- `U_INIT` leaves the state array with no round done. -/
theorem State.buildBlock_workMatches (s : State) : s.buildBlock.workMatches :=
  (State.workMatches_round_iff rfl).2 ⟨rfl, rfl⟩

/-- A quarter round, and the position it leads to, go one further: within the double round, to the
next one, or past the tenth. -/
theorem State.workMatches.quarterRound (h : s.workMatches) (hp : s.pos.ph = .round) :
    (s.quarterRound s.pos.qi).workMatches := by
  obtain ⟨hs, hx⟩ := (State.workMatches_round_iff hp).1 h
  have hx' : (s.quarterRound s.pos.qi).x = quarterRounds (s.pos.qi.val + 1)
      (doubleRounds s.pos.dr (initState s.k s.n s.blockCounter)) := by
    rw [State.quarterRound_x, hx, quarterRounds_succ]
  by_cases hq : s.pos.qi.val < 7
  · have hpos := Pos.afterQr_lt s.pos s.pos.qi hq
    rw [State.workMatches_round_iff (by simp [hpos]), hx']
    simp [hs, hpos]
  have hq7 : s.pos.qi.val = 7 := by omega
  rw [hq7, quarterRounds_eight, ← doubleRounds_succ] at hx'
  by_cases hd : s.pos.dr.val < 9
  · have hpos := Pos.afterQr_again s.pos s.pos.qi hq7 hd
    rw [State.workMatches_round_iff (by simp [hpos]), hx']
    simp [hs, hpos, quarterRounds]
  · have hd9 : s.pos.dr.val = 9 := by omega
    have hpos := Pos.afterQr_done s.pos s.pos.qi hq7 hd9
    rw [State.workMatches_final_iff (by simp [hpos]), hx', hd9]
    simp [hs, rounds]

/-- `U_FINAL` makes ten double rounds and the state array the block (R146). -/
theorem State.workMatches.addSaved (h : s.workMatches) (hp : s.pos.ph = .final) :
    s.addSaved.workMatches := by
  obtain ⟨hs, hx⟩ := (State.workMatches_final_iff hp).1 h
  rw [State.workMatches_emit_iff rfl, State.addSaved_x, hs, hx]
  rfl

/-! ### Between commands -/

/-- A command ends idle or waits for `U_INIT`. -/
theorem CommandResult.pos_free (h : CommandResult s c t) :
    t.pos.ph = .idle ∨ t.pos.ph = .init := by
  cases h with
  | blockStarted | dataStarted => exact .inr rfl
  | _ => exact .inl rfl

theorem HostResult.pos_free (h : HostResult s i t) (hp : s.pos.ph = .idle) :
    t.pos.ph = .idle ∨ t.pos.ph = .init := by
  cases h with
  | wrReg r v => exact .inl (by simp [hp])
  | wrIllegal => exact .inl rfl
  | wrCommand _ _ ht => exact ht.pos_free
  | rd | win | rout => exact .inl hp

/-! ### Every step -/

/-- Settles O49: a reset, the host port and `U_EMIT` lead where the working state is free; the other
micro-operations carry it on. -/
theorem stepKeepsTheWorkingState : Obligations.StepKeepsTheWorkingState := by
  intro s t _ hw h
  cases hr : s.resetIn with
  | some d =>
    cases (step_reset hr).symm.trans h
    exact State.workMatches_of_free (.inl rfl)
  | none =>
    by_cases hp : s.pos.ph = .idle
    · obtain rfl | ⟨i, ht⟩ := step_idle_cases hr hp h
      · exact hw
      · exact State.workMatches_of_free (ht.pos_free (by rw [State.accept_pos, hp]))
    · obtain ⟨-, -, rfl⟩ | ⟨hph, rfl⟩ | ⟨hph, rfl⟩ | ⟨-, -, rfl⟩ | ⟨-, -, rfl⟩ :=
        step_inCommand_cases hr hp h
      · exact s.buildBlock_workMatches
      · exact hw.quarterRound hph
      · exact hw.addSaved hph
      · exact State.workMatches_of_free (.inl rfl)
      · exact State.workMatches_of_free (.inr rfl)

end Sys2Proof.Machine
end
section
/-! The host port (R178 to R182): what each transaction reads or writes, and the command a write of
`CMD` starts. -/

namespace Sys2Proof.Machine

variable {s t : State}

/-! ### Reads (R178, R181) -/

/-- `STATUS` is `VALID` at bit 0, `ERRF` at bit 1 and zeros above (R34, R87). -/
theorem statusWord_getLsbD (s : State) (i : Nat) :
    s.statusWord.getLsbD i = if i = 0 then s.valid else if i = 1 then s.errf else false := by
  rw [State.statusWord, BitVec.zeroExtend, BitVec.getLsbD_setWidth, BitVec.getLsbD_append]
  match i with
  | 0 | 1 | i + 2 => simp

theorem State.errf_iff (s : State) : s.errf = true ↔ s.err ≠ .ok := bne_iff_ne

/-- Settles O16: the response is the register's word; only `STATUS` and `ERR` are put together. -/
theorem rdAnswersTheRegister : Obligations.RdAnswersTheRegister := by
  intro s r
  refine ⟨s.answerRead (s.readReg r), rfl, rfl, ?_⟩
  cases r with
  | status =>
    refine ⟨statusWord_getLsbD s 0, ?_, fun i hi => ?_⟩
    · exact (Bool.eq_iff_iff.1 (statusWord_getLsbD s 1)).trans s.errf_iff
    · exact (statusWord_getLsbD s i).trans (by rw [if_neg (by omega), if_neg (by omega)])
  | err =>
    rw [State.answerRead_rdata, State.readReg]
    cases s.err <;> rfl
  | _ => rfl

theorem execRout_inRange {a : Word} (h : a.toNat < 2 ^ s.params.lenW) :
    execRout a s = .next (s.answerRead ((s.outMem.read a.toNat).zeroExtend 32)) :=
  if_pos ((addrInRange_iff _ _).2 h)

/-- Settles O21: a byte extended to a word keeps its value. -/
theorem routReadsOneOutputByte : Obligations.RoutReadsOneOutputByte := by
  intro s a ha
  refine ⟨_, execRout_inRange ha, rfl, ?_⟩
  rw [State.answerRead_rdata]
  exact BitVec.toNat_setWidth_of_le (by decide)

/-! ### Writes (R179, R180) -/

theorem execWin_inRange {a : Word} (b : Byte) (h : a.toNat < 2 ^ s.params.lenW) :
    execWin a b s = .next { s.answerWrite with inMem := s.inMem.write a.toNat b } :=
  if_pos ((addrInRange_iff _ _).2 h)

/-- Settles O20: a read after a write. -/
theorem winWritesOneInputByte : Obligations.WinWritesOneInputByte :=
  fun s a b ha hw =>
    ⟨_, execWin_inRange b ha, rfl, fun x => Memory.read_write s.inMem a.toNat x b hw⟩

theorem keepLow_toNat (lenW : Nat) (v : Word) : (keepLow lenW v).toNat = v.toNat % 2 ^ lenW := by
  rw [keepLow, BitVec.toNat_ofNat]
  exact Nat.mod_eq_of_lt ((Nat.mod_le _ _).trans_lt v.isLt)

/-- Settles O17, register by register. -/
theorem wrWritesExactlyTheNamedRegister : Obligations.WrWritesExactlyTheNamedRegister := by
  intro s r v hr
  refine ⟨_, execWr_reg hr v s, ?_⟩
  cases r with
  | len => exact ⟨rfl, keepLow_toNat s.params.lenW v⟩
  | keyin j =>
    refine ⟨rfl, Vector.getElem_set_self j.isLt, fun i hi => ?_⟩
    exact Vector.getElem_set_ne j.isLt i.isLt (Fin.val_ne_of_ne hi.symm)
  | _ => rfl

/-! ### A write of `CMD` (R176) -/

theorem execWr_cmd_legal {w : Word} {c : Command} (h : decodeCommand w = some c) (s : State) :
    exec (.wr .cmd w) s = exec c.instr s.answerWrite :=
  (execWr_cmd w s).trans (startCommand_legal h s.answerWrite)

theorem execWr_cmd_illegal {w : Word} (h : decodeCommand w = none) (s : State) :
    exec (.wr .cmd w) s = .next (s.answerWrite.raise .illegalCommand) :=
  (execWr_cmd w s).trans (startCommand_illegal h s.answerWrite)

/-- Settles O18: the word decodes to its command, or to none and raises `IllegalCommand`. -/
theorem wrCmdStartsTheCommand : Obligations.WrCmdStartsTheCommand := by
  intro s
  refine ⟨s.answerWrite, rfl, execWr_cmd_legal (c := .new) rfl s,
    execWr_cmd_legal (c := .block) rfl s, execWr_cmd_legal (c := .keystream) rfl s,
    execWr_cmd_legal (c := .encrypt) rfl s, execWr_cmd_legal (c := .decrypt) rfl s, fun w => ?_⟩
  cases hw : decodeCommand w with
  | none => exact ⟨_, execWr_cmd_illegal hw s⟩
  | some c =>
    rw [execWr_cmd_legal hw]
    exact exec_command_next c s.answerWrite

end Sys2Proof.Machine
end
section
/-! `NEW` (R172, R221), the dispatch of a command (R176, R184) and the step's choice of what to run
(R184, R250). -/

namespace Sys2Proof.Machine

variable {s t : State}

/-- Settles O23: from the idle position, where the command also ends. -/
theorem newConstructsTheInstance : Obligations.NewConstructsTheInstance := by
  intro s hk hp
  refine ⟨_, execNew_ok hk, ?_, fun _ => rfl, rfl, rfl⟩
  simp only [State.complete, State.unlatchOpc, State.construct, hp]

/-- Settles O24: the error is not the overflow, so the model's mark stays too. -/
theorem newWithAnotherKeyLengthFails : Obligations.NewWithAnotherKeyLengthFails := by
  intro s hk hp
  have hne : s.klen ≠ 32 := fun h => hk (by rw [h]; rfl)
  refine ⟨_, execNew_fail hne, ?_, rfl⟩
  have hmark : (s.overflowMark || ErrCode.invalidKeyLength == ErrCode.counterOverflow) =
    s.overflowMark := Bool.or_false _
  simp only [State.fail, State.raise, State.unlatchOpc, hp, hmark, if_true]

/-- Settles O31: `dispatch` is the first position of the sequencer; an empty request has no
block. -/
theorem dispatchStartsTheSequencer : Obligations.DispatchStartsTheSequencer := by
  intro s hl hv hp
  refine ⟨execBlock_sequenced hv hl, fun hc hlen => ?_, fun hlen c hd => ?_⟩
  · have h0 : s.nblk ≠ 0 := by
      rw [ne_eq, State.nblk_eq_zero]
      exact fun h => hlen (BitVec.eq_of_toNat_eq h)
    have hpre := State.precheckData_ok hv hc
    exact ⟨exec_dataCommand_sequenced (.inl rfl) hpre h0 hl,
      exec_dataCommand_sequenced (.inr (.inl rfl)) hpre h0 hl,
      exec_dataCommand_sequenced (.inr (.inr rfl)) hpre h0 hl⟩
  · have h0 : s.nblk = 0 := State.nblk_eq_zero.2 (by rw [hlen]; rfl)
    have hc : counterOverflows s.len.toNat s.ctr = false :=
      (counterOverflows_false_iff _ _).2 (.inl h0)
    refine ⟨_, exec_dataCommand_empty hd (State.precheckData_ok hv hc) h0, ?_⟩
    simp only [State.complete, State.unlatchOpc, hp, hlen]

/-- Settles O10: at `ROUND` the schedule entry of `QI`. -/
theorem stepRunsTheMicroOperationOfThePosition :
    Obligations.StepRunsTheMicroOperationOfThePosition := by
  intro s hr
  have hround {q : Fin 8} (hp : s.pos.ph = .round) (hq : s.pos.qi = q) :
      step s = .next (s.quarterRound q) := by
    rw [step_round hr hp, hq]
  exact ⟨step_init hr, hround, hround, hround, hround, hround, hround, hround, hround,
    step_final hr, step_emit hr⟩

/-- Settles O11: nothing is fetched. -/
theorem stepWaitsForTheHost : Obligations.StepWaitsForTheHost := by
  intro s ⟨hp, hr⟩ hq
  have hf : s.fetch = none := by
    simp only [State.fetch, hp, Pos.idle, hq, List.head?_nil, Option.map_none]
  simp only [step, hr, hf]

end Sys2Proof.Machine
end
section
/-! The stream (R170 to R175, R190 to R195): where a request splits, processing as its own inverse,
and the bytes the data commands leave in `OUT` at the functional level. -/

namespace Sys2Proof.Machine

variable {s t : State} {c : Command}

/-! ### The keystream function (R170, R192 to R195) -/

theorem keystream_eq_some {k : Vector Word 8} {n : Vector Word 2} {len c : Nat} {ks : List Byte} :
    keystream k n len c = some ks ↔
      counterOverflows len c = false ∧ keystreamBytes k n len c = ks := by
  cases h : counterOverflows len c <;> simp [keystream, h]

theorem keystream_length {k : Vector Word 8} {n : Vector Word 2} {len c : Nat} {ks : List Byte}
    (h : keystream k n len c = some ks) : ks.length = len := by
  obtain ⟨-, rfl⟩ := keystream_eq_some.1 h
  exact keystreamBytes_length k n len c

theorem nblk_whole (p : Nat) : nblk (64 * p) = p := by
  simp only [nblk]
  omega

/-- Whole blocks in front of a request are that many blocks more. -/
theorem nblk_whole_add (p r : Nat) : nblk (64 * p + r) = p + nblk r := by
  simp only [nblk]
  omega

theorem keystreamBytes_whole (k : Vector Word 8) (n : Vector Word 2) (p c : Nat) :
    keystreamBytes k n (64 * p) c = blocksFrom k n c p := by
  rw [keystreamBytes, nblk_whole, List.take_of_length_le (blocksFrom_length k n c p).le]

/-- A request is its whole blocks in front, then a request from the next counter (R193). -/
theorem keystreamBytes_split (k : Vector Word 8) (n : Vector Word 2) (p r c : Nat) :
    keystreamBytes k n (64 * p + r) c =
      keystreamBytes k n (64 * p) c ++ keystreamBytes k n r (c + p) := by
  rw [keystreamBytes_whole, keystreamBytes, nblk_whole_add, blocksFrom_add,
    ← blocksFrom_length k n c p, List.take_length_add_append, ← keystreamBytes]

/-- Neither part of a request that stays below the top counter passes it (R223). -/
theorem counterOverflows_split {p r c : Nat} (h : counterOverflows (64 * p + r) c = false) :
    counterOverflows (64 * p) c = false ∧ counterOverflows r (c + p) = false := by
  simp only [counterOverflows_false_iff, nblk_whole_add, nblk_whole] at h ⊢
  omega

/-- A request of at most one block never passes the top counter. -/
theorem counterOverflows_oneBlock {r c : Nat} (hr : r ≤ 64) (hc : c ≤ 2 ^ 64 - 1) :
    counterOverflows r c = false := by
  rw [counterOverflows_false_iff, nblk]
  omega

theorem keystreamBytes_oneBlock (k : Vector Word 8) (n : Vector Word 2) {r : Nat} (c : Nat)
    (hr : r ≤ 64) : keystreamBytes k n r c = (blockBytes k n c).take r := by
  apply List.ext_getElem?
  intro a
  by_cases ha : a < r
  · rw [keystreamBytes_getElem k n r c a ha, List.getElem?_take_of_lt ha,
      Nat.div_eq_of_lt (ha.trans_le hr), Nat.mod_eq_of_lt (ha.trans_le hr), Nat.add_zero]
  · rw [List.getElem?_eq_none (by simpa using ha), List.getElem?_eq_none (by simp; omega)]

/-- Settles O44: the blocks of the whole are those of its parts, and so are the counters. -/
theorem keystreamSplitsAtBlocks : Obligations.KeystreamSplitsAtBlocks := by
  refine ⟨fun k n p r c z hz => ?_, fun k n r c hr hc => ?_⟩
  · obtain ⟨hc, rfl⟩ := keystream_eq_some.1 hz
    obtain ⟨hp, hr⟩ := counterOverflows_split hc
    exact ⟨_, _, keystream_eq_some.2 ⟨hp, rfl⟩, keystream_eq_some.2 ⟨hr, rfl⟩,
      keystreamBytes_split k n p r c⟩
  · exact keystream_eq_some.2 ⟨counterOverflows_oneBlock hr hc, keystreamBytes_oneBlock k n c hr⟩

/-! ### Processing (R171, R190, R191) -/

theorem process_eq_some {k : Vector Word 8} {n : Vector Word 2} {data : List Byte} {c : Nat}
    {z : List Byte} : process k n data c = some z ↔
      ∃ ks, keystream k n data.length c = some ks ∧ xorBytes data ks = z := Option.map_eq_some_iff

/-- Each byte XORed twice with the same byte is the byte. -/
theorem xorBytes_xorBytes {data ks : List Byte} (h : ks.length = data.length) :
    xorBytes (xorBytes data ks) ks = data := by
  apply List.ext_getElem
  · simp [h]
  · intro a _ _
    simp [xorBytes, xor8]

theorem process_process {k : Vector Word 8} {n : Vector Word 2} {data z : List Byte} {c : Nat}
    (h : process k n data c = some z) : process k n z c = some data := by
  obtain ⟨ks, hks, rfl⟩ := process_eq_some.1 h
  have hlen := keystream_length hks
  refine process_eq_some.2 ⟨ks, ?_, xorBytes_xorBytes hlen⟩
  rw [xorBytes_length, hlen, Nat.min_self, hks]

/-! ### A data command at the functional level (R173 to R175) -/

/-- What a data command that succeeds leaves, hidden state apart (R53, R183). -/
def State.withOutput (s : State) (c : Command) : State :=
  { s with
    outMem := s.outMem.writeBytes 0 (s.dataOut c), err := .ok, olen := s.len, pos := Pos.idle }

/-- From the idle position it writes `OUT`, `ERR` and `OLEN`. -/
theorem State.withOutput_frame (hp : s.pos = Pos.idle) (c : Command) :
    s.withOutput c =
      { s with outMem := (s.withOutput c).outMem, err := .ok, olen := s.len } := by
  rw [State.withOutput, ← hp]

/-- Of an empty request there is nothing to write. -/
theorem State.dataOut_of_nblk_eq_zero (h : s.nblk = 0) (c : Command) : s.dataOut c = [] := by
  rw [← List.length_eq_zero_iff, State.dataOut_length, ← State.nblk_eq_zero, h]

theorem exec_dataCommand_ok (hd : c = .keystream ∨ c = .encrypt ∨ c = .decrypt)
    (hl : s.params.level = .functional) (hp : s.precheckData = none) :
    ∃ t, exec c.instr s = .next t ∧ t = (s.withOutput c).hiddenAs t := by
  by_cases h0 : s.nblk = 0
  · refine ⟨_, exec_dataCommand_empty hd hp h0, ?_⟩
    rw [State.withOutput, State.dataOut_of_nblk_eq_zero h0]
    rfl
  · refine ⟨_, exec_dataCommand_functional hd hp h0 hl, ?_⟩
    rw [State.withOutput]
    generalize s.dataOut c = out
    rfl

theorem State.precheckData_ne_ok : s.precheckData ≠ some .ok := by
  obtain ⟨-, h⟩ | ⟨-, -, h⟩ | ⟨-, -, h⟩ := s.precheckData_cases <;> simp [h]

/-- A data command that ended without an error has passed its pre-check. -/
theorem precheckData_of_err_ok (hd : c = .keystream ∨ c = .encrypt ∨ c = .decrypt)
    (h : exec c.instr s = .next t) (he : t.err = .ok) : s.precheckData = none := by
  cases hp : s.precheckData with
  | none => rfl
  | some e =>
    cases (exec_dataCommand_fail hd hp).symm.trans h
    rw [State.fail_err] at he
    exact absurd (he ▸ hp) State.precheckData_ne_ok

theorem exec_dataCommand_succeeded (hd : c = .keystream ∨ c = .encrypt ∨ c = .decrypt)
    (hl : s.params.level = .functional) (h : exec c.instr s = .next t) (he : t.err = .ok) :
    t = (s.withOutput c).hiddenAs t := by
  obtain ⟨t', h', ht'⟩ := exec_dataCommand_ok hd hl (precheckData_of_err_ok hd h he)
  cases h.symm.trans h'
  exact ht'

/-! ### The bytes of `OUT` (R53, R192) -/

/-- The bytes a data command has written to `OUT`: the keystream below `LEN`, XORed with `IN` but
for `KEYSTREAM`, and what was there from `LEN` on. -/
def State.outputIn (s : State) (c : Command) (m : Memory) : Prop :=
  (∀ a, a < s.len.toNat → s.keystreamOut[a]? =
    some (if c = .keystream then m.read a else m.read a ^^^ s.inMem.read a)) ∧
  ∀ a, s.len.toNat ≤ a → m.read a = s.outMem.read a

/-- A byte of the output, XORed with `IN` again but for `KEYSTREAM`, is the keystream's. -/
theorem State.keystreamOut_getElem (s : State) (c : Command) {a : Nat}
    (h : a < (s.dataOut c).length) (hk : a < s.keystreamOut.length) :
    s.keystreamOut[a] =
      if c = .keystream then (s.dataOut c)[a] else (s.dataOut c)[a] ^^^ s.inMem.read a := by
  by_cases hc : c = .keystream
  · simp only [State.dataOut, hc, if_true]
  · have hin : a < (s.inMem.readBytes 0 s.len.toNat).length := by simpa using hk
    simp only [State.dataOut, hc, if_false, State.processOut, xorBytes_getElem _ _ a hin hk,
      Memory.readBytes_getElem, Nat.zero_add]
    rw [BitVec.xor_comm (s.inMem.read a), BitVec.xor_assoc, BitVec.xor_self, BitVec.xor_zero]

theorem State.withOutput_outputIn (hw : s.outMem.wf = true) (c : Command) :
    s.outputIn c (s.withOutput c).outMem := by
  have hread (a : Nat) := Memory.read_writeBytes s.outMem 0 a (s.dataOut c) hw
  refine ⟨fun a ha => ?_, fun a ha => ?_⟩
  · have hin : 0 ≤ a ∧ a < 0 + (s.dataOut c).length := by simpa using ha
    rw [List.getElem?_eq_getElem (by simpa using ha), s.keystreamOut_getElem c (by simpa using ha),
      State.withOutput, hread a, dif_pos hin]
    rfl
  · have hout : ¬ (0 ≤ a ∧ a < 0 + (s.dataOut c).length) := by simpa using ha
    rw [State.withOutput, hread a, dif_neg hout]

theorem outputIn_of_succeeded (hd : c = .keystream ∨ c = .encrypt ∨ c = .decrypt)
    (hl : s.params.level = .functional) (hw : s.outMem.wf = true) (h : exec c.instr s = .next t)
    (he : t.err = .ok) : s.outputIn c t.outMem := by
  rw [exec_dataCommand_succeeded hd hl h he]
  exact State.withOutput_outputIn hw c

/-- Settles O43: the output is as long as the request. -/
theorem lengthIsExact : Obligations.LengthIsExact := by
  refine ⟨fun _ _ _ _ _ => keystream_length, fun s t c hd hl hw h he => ?_⟩
  have holen : t.olen = s.len := by
    rw [exec_dataCommand_succeeded hd hl h he]
    rfl
  exact ⟨holen, outputIn_of_succeeded hd hl hw h he⟩

/-- A data command whose pre-check passes: its frame, and the bytes of `OUT` block by block. -/
theorem dataCommand_writes (hd : c = .keystream ∨ c = .encrypt ∨ c = .decrypt)
    (hl : s.params.level = .functional) (hv : s.valid = true) (hp : s.pos = Pos.idle)
    (hw : s.outMem.wf = true) (hc : counterOverflows s.len.toNat s.ctr = false) :
    ∃ t, exec c.instr s = .next t ∧
      t = { s with outMem := t.outMem, err := .ok, olen := s.len }.hiddenAs t ∧
      (∀ a, a < s.len.toNat → (blockBytes s.k s.n (s.ctr + a / 64))[a % 64]? =
        some (if c = .keystream then t.outMem.read a else t.outMem.read a ^^^ s.inMem.read a)) ∧
      ∀ a, s.len.toNat ≤ a → t.outMem.read a = s.outMem.read a := by
  obtain ⟨t, h, ht⟩ := exec_dataCommand_ok hd hl (State.precheckData_ok hv hc)
  have hout : (s.withOutput c).outMem = t.outMem := by
    rw [ht]
    rfl
  obtain ⟨hbelow, habove⟩ := State.withOutput_outputIn hw c
  rw [hout] at hbelow habove
  refine ⟨t, h, ?_, fun a ha => ?_, habove⟩
  · rw [← hout, ← State.withOutput_frame hp]
    exact ht
  · rw [← keystreamBytes_getElem s.k s.n s.len.toNat s.ctr a ha, ← State.keystreamOut, hbelow a ha]

/-- Settles O29: its bytes are the keystream's. -/
theorem keystreamWritesTheKeystream : Obligations.KeystreamWritesTheKeystream :=
  fun _ hl hv hp hw hc => dataCommand_writes (c := .keystream) (.inl rfl) hl hv hp hw hc

/-- Settles O30: their bytes are the keystream's XORed with `IN`. -/
theorem encryptAndDecryptXorTheInput : Obligations.EncryptAndDecryptXorTheInput := by
  intro s c hd hl hv hp hw hc
  have hk : c ≠ .keystream := by
    obtain rfl | rfl := hd <;> decide
  have hwrites := dataCommand_writes (.inr hd) hl hv hp hw hc
  simp only [hk, if_false] at hwrites
  exact hwrites

/-! ### `ENCRYPT`, `DECRYPT` and `KEYSTREAM` with the same operands (R190, R191) -/

/-- The keystream depends on `K`, `N`, the counter and the length alone. -/
theorem keystreamOut_congr {s' : State} (hk : s.k = s'.k) (hn : s.n = s'.n)
    (hlo : s.ctrLo = s'.ctrLo) (hhi : s.ctrHi = s'.ctrHi) (hlen : s.len = s'.len) :
    s.keystreamOut = s'.keystreamOut := by
  simp only [State.keystreamOut, State.ctr, hk, hn, hlo, hhi, hlen]

/-- Below `LEN` a successful `KEYSTREAM` has left the keystream. -/
theorem keystream_read {a : Nat} (hl : s.params.level = .functional) (hw : s.outMem.wf = true)
    (h : exec .keystream s = .next t) (he : t.err = .ok) (ha : a < s.len.toNat) :
    s.keystreamOut[a]? = some (t.outMem.read a) := by
  obtain ⟨hbelow, -⟩ := outputIn_of_succeeded (c := .keystream) (.inl rfl) hl hw h he
  exact hbelow a ha

/-- Below `LEN` a successful `ENCRYPT` or `DECRYPT` has left what differs from `IN` by the
keystream. -/
theorem process_read {a : Nat} (hd : c = .encrypt ∨ c = .decrypt)
    (hl : s.params.level = .functional) (hw : s.outMem.wf = true)
    (h : exec c.instr s = .next t) (he : t.err = .ok) (ha : a < s.len.toNat) :
    s.keystreamOut[a]? = some (t.outMem.read a ^^^ s.inMem.read a) := by
  have hk : c ≠ .keystream := by
    obtain rfl | rfl := hd <;> decide
  obtain ⟨hbelow, -⟩ := outputIn_of_succeeded (.inr hd) hl hw h he
  rw [hbelow a ha, if_neg hk]

/-- Settles O45: both commands take the same keystream. -/
theorem encryptIsXorWithKeystream : Obligations.EncryptIsXorWithKeystream := by
  constructor
  · intro k n data c z h
    obtain ⟨ks, hks, rfl⟩ := process_eq_some.1 h
    exact ⟨ks, hks, rfl⟩
  · intro s1 s2 t1 t2 hl1 hl2 hw1 hw2 hk hn hlo hhi hlen h1 he1 h2 he2 a ha
    have hks := keystream_read hl1 hw1 h1 he1 ha
    have hxor := process_read (c := .encrypt) (.inl rfl) hl2 hw2 h2 he2 (hlen ▸ ha)
    rw [← keystreamOut_congr hk hn hlo hhi hlen, hks, Option.some_inj] at hxor
    rw [hxor, BitVec.xor_comm, BitVec.xor_assoc, BitVec.xor_self, BitVec.xor_zero]

/-- Settles O46: the second command XORs the same keystream away. -/
theorem encryptTwiceIsTheIdentity : Obligations.EncryptTwiceIsTheIdentity := by
  refine ⟨fun _ _ _ _ _ => process_process, ?_⟩
  intro s1 s2 t1 t2 c hd hl1 hl2 hw1 hw2 hk hn hlo hhi hlen h1 he1 hcopy h2 he2 a ha
  have hks := process_read (c := .encrypt) (.inl rfl) hl1 hw1 h1 he1 ha
  have hxor := process_read hd hl2 hw2 h2 he2 (hlen ▸ ha)
  rw [← keystreamOut_congr hk hn hlo hhi hlen, hks, Option.some_inj, hcopy a ha,
    BitVec.xor_comm, BitVec.xor_left_inj] at hxor
  exact hxor.symm

end Sys2Proof.Machine
end
section
/-! The sequencer (R182 to R185): what `U_EMIT` stores, the path of the position, and the end of
every command in progress. -/

namespace Sys2Proof.Machine

variable {s t : State} {m : Nat} {v : Word}

/-! ### `U_EMIT` (R182) -/

/-- Settles O35: a `BLOCK` has one block and no `OLEN`. -/
theorem emitOfABlockCommand : Obligations.EmitOfABlockCommand := by
  intro s ho
  have hblock : s.opc = Command.block.opcode := ho
  have hlast : s.lastBlock = true := by simp [State.lastBlock, hblock]
  have hstore : s.storeBlock = { s with blk := s.x } := if_pos hblock
  have holen : s.finalOlen = 0 := if_pos hblock
  refine ⟨_, execUEmit_last hlast, ?_⟩
  rw [hstore, holen]
  rfl

/-- Byte `k` of what is stored for a data command, XORed with `IN` again but for `KEYSTREAM`, is the
block's. -/
theorem emitBytes_getElem (s : State) {k : Nat} (h : k < s.emitBytes.length)
    (hk : k < (serialize s.x).length) :
    (serialize s.x)[k] =
      if s.opc = Command.keystream.opcode then s.emitBytes[k]
      else s.emitBytes[k] ^^^ s.inMem.read (64 * s.pos.bi + k) := by
  by_cases ho : s.opc = Command.keystream.opcode
  · simp only [State.emitBytes, ho, if_true, List.getElem_take]
  · rw [emitBytes_length] at h
    have hin : k < (s.inMem.readBytes (64 * s.pos.bi) s.keptBytes).length := by simpa using h
    have hks : k < ((serialize s.x).take s.keptBytes).length := by
      rw [List.length_take]
      exact Nat.lt_min.2 ⟨h, hk⟩
    simp only [State.emitBytes, ho, if_false, xorBytes_getElem _ _ k hin hks,
      Memory.readBytes_getElem, List.getElem_take]
    rw [BitVec.xor_comm (s.inMem.read _), BitVec.xor_assoc, BitVec.xor_self, BitVec.xor_zero]

theorem storeBlock_data (ho : s.opc ≠ Command.block.opcode) :
    s.storeBlock = s.storeOut (64 * s.pos.bi) s.emitBytes := if_neg ho

/-- The bytes `U_EMIT` of a data command has written to `OUT`: the kept bytes of the block in
progress, XORed with `IN` but for `KEYSTREAM`, and no other (R53, R182). -/
def State.blockIn (s : State) (m : Memory) : Prop :=
  (∀ k, k < 64 → 64 * s.pos.bi + k < s.len.toNat → (serialize s.x)[k]? =
    some (if s.opc = Command.keystream.opcode then m.read (64 * s.pos.bi + k)
      else m.read (64 * s.pos.bi + k) ^^^ s.inMem.read (64 * s.pos.bi + k))) ∧
  ∀ a, a < 64 * s.pos.bi ∨ 64 * s.pos.bi + 64 ≤ a ∨ s.len.toNat ≤ a → m.read a = s.outMem.read a

theorem State.storeBlock_blockIn (ho : s.opc ≠ Command.block.opcode) (hw : s.outMem.wf = true) :
    s.blockIn s.storeBlock.outMem := by
  have hread (a : Nat) := Memory.read_writeBytes s.outMem (64 * s.pos.bi) a s.emitBytes hw
  have hlen : s.emitBytes.length = min 64 (s.len.toNat - 64 * s.pos.bi) := emitBytes_length s
  refine ⟨fun k hk64 hk => ?_, fun a ha => ?_⟩
  · have hkept : k < s.emitBytes.length := by omega
    have hser : k < (serialize s.x).length := by rwa [serialize_length]
    rw [storeBlock_data ho, State.storeOut_outMem, hread, dif_pos (by omega),
      List.getElem?_eq_getElem hser, emitBytes_getElem s hkept hser]
    simp only [Nat.add_sub_cancel_left]
  · rw [storeBlock_data ho, State.storeOut_outMem, hread, dif_neg (by omega)]

/-- Settles O36: the bytes by their place in the block, then the two ways the command goes on. -/
theorem emitOfADataCommand : Obligations.EmitOfADataCommand := by
  intro s ho hw
  have hne : s.opc ≠ Command.block.opcode := by
    obtain h | h | h := ho <;> rw [h] <;> decide
  have hin : s.blockIn s.storeBlock.outMem := State.storeBlock_blockIn hne hw
  by_cases hmore : s.pos.bi + 1 < (s.len.toNat + 63) / 64
  · obtain ⟨hbytes, hother⟩ := hin
    refine ⟨_, execUEmit_more (State.lastBlock_false_iff.2 ⟨hne, hmore⟩), hbytes, hother, ?_⟩
    rw [if_pos hmore, storeBlock_data hne]
    generalize s.emitBytes = bytes
    rfl
  · have hdone : s.nblk ≤ s.pos.bi + 1 := Nat.le_of_not_lt hmore
    have hlast : s.lastBlock = true := by simp [State.lastBlock, hdone]
    have holen : s.finalOlen = s.len := if_neg hne
    rw [← State.completeBlocks_outMem _ s.finalOlen] at hin
    obtain ⟨hbytes, hother⟩ := hin
    refine ⟨_, execUEmit_last hlast, hbytes, hother, ?_⟩
    rw [if_neg hmore, holen, storeBlock_data hne]
    generalize s.emitBytes = bytes
    rfl

/-! ### The path of the position (R184) -/

/-- The position after a micro-operation; `last` is the end-of-command test of `U_EMIT`. -/
def Pos.next (p : Pos) (last : Bool) : Pos :=
  match p.ph with
  | .idle => p
  | .init => p.afterInit
  | .round => p.afterQr p.qi
  | .final => p.afterFinal
  | .emit => if last then Pos.idle else p.nextBlock

theorem step_inCommand_pos (hr : s.resetIn = none) (hp : s.pos.ph ≠ .idle) (h : step s = .next t) :
    t.pos = s.pos.next s.lastBlock := by
  obtain ⟨hph, -, rfl⟩ | ⟨hph, rfl⟩ | ⟨hph, rfl⟩ | ⟨hph, hl, rfl⟩ | ⟨hph, hl, rfl⟩ :=
    step_inCommand_cases hr hp h
  · simp [Pos.next, hph]
  · simp [Pos.next, hph]
  · simp [Pos.next, hph]
  · simp [Pos.next, hph, hl]
  · simp [Pos.next, hph, hl]

/-- Settles O53: the next position is a function of the position and of the end-of-command test,
which reads the opcode, the position and `LEN`. -/
theorem sequencerPathIgnoresSecrets : Obligations.SequencerPathIgnoresSecrets := by
  intro s s' t t' hr hr' hp hpos hopc hlen h h'
  have hlast : s.lastBlock = s'.lastBlock := by
    rw [State.lastBlock, State.lastBlock, State.nblk, State.nblk, hpos, hopc, hlen]
  rw [step_inCommand_pos hr hp h, step_inCommand_pos hr' (hpos ▸ hp) h', hpos, hlast]

/-! ### Micro-operations left (R183, R185) -/

/-- The micro-operations left of the block in progress. -/
def Pos.opsLeft (p : Pos) : Nat :=
  match p.ph with
  | .idle => 0
  | .init => 83
  | .round => 82 - (8 * p.dr.val + p.qi.val)
  | .final => 2
  | .emit => 1

/-- The blocks of the command in progress (R37, R183). -/
def State.blocks (s : State) : Nat := if s.opc = Command.block.opcode then 1 else s.nblk

/-- The micro-operations left of the command in progress. -/
def State.opsLeft (s : State) : Nat := s.pos.opsLeft + 83 * (s.blocks - (s.pos.bi + 1))

theorem Pos.opsLeft_le (p : Pos) : p.opsLeft ≤ 83 := by
  unfold Pos.opsLeft
  split <;> omega

theorem Pos.opsLeft_pos {p : Pos} (h : p.ph ≠ .idle) : 0 < p.opsLeft := by
  unfold Pos.opsLeft
  split
  · exact absurd ‹_› h
  all_goals omega

/-- A quarter round is one of the micro-operations of its block. -/
theorem Pos.opsLeft_afterQr (p : Pos) (h : p.ph = .round) :
    (p.afterQr p.qi).opsLeft < p.opsLeft := by
  by_cases hq : p.qi.val < 7
  · rw [Pos.afterQr_lt p p.qi hq]
    simp only [Pos.opsLeft, h]
    omega
  have hq7 : p.qi.val = 7 := by omega
  by_cases hd : p.dr.val < 9
  · rw [Pos.afterQr_again p p.qi hq7 hd]
    simp only [Pos.opsLeft, h, Fin.val_zero]
    omega
  · rw [Pos.afterQr_done p p.qi hq7 (by omega)]
    simp only [Pos.opsLeft, h]
    omega

theorem State.inCommand.bi_lt_blocks (h : s.inCommand) : s.pos.bi < s.blocks := by
  obtain ⟨-, ⟨ho, hbi⟩ | ⟨ho, hbi, -⟩⟩ := h
  · simp [State.blocks, ho, hbi]
  · rw [State.blocks, if_neg (by obtain h | h | h := ho <;> rw [h] <;> decide)]
    exact hbi

theorem State.inCommand.opsLeft_le (h : s.inCommand) : s.opsLeft ≤ 83 * s.blocks := by
  have hbi := h.bi_lt_blocks
  have hops := s.pos.opsLeft_le
  rw [State.opsLeft]
  omega

/-- No block of a command in progress is beyond the top counter (R149, R223). -/
theorem State.inCommand.blockCounter_le (h : s.inCommand) : s.blockCounter ≤ 2 ^ 64 - 1 := by
  obtain ⟨-, ⟨-, hbi⟩ | ⟨-, hbi, hc⟩⟩ := h
  · rw [State.blockCounter, hbi]
    exact Nat.le_pred_of_lt (u64_lt s.ctrLo s.ctrHi)
  · exact State.ctr_add_le hc hbi

theorem step_inCommand_next (hr : s.resetIn = none) (hp : s.pos.ph ≠ .idle) (hc : s.inCommand) :
    ∃ t, step s = .next t := by
  cases hph : s.pos.ph with
  | idle => exact absurd hph hp
  | init => exact ⟨_, (step_init hr hph).trans (execUInit_ok hc.blockCounter_le)⟩
  | round => exact ⟨_, step_round hr hph⟩
  | final => exact ⟨_, step_final hr hph⟩
  | emit => exact ⟨_, step_emit hr hph⟩

/-! ### The end of a command in progress (R185) -/

/-- The command of `s` is still in progress in `t`, with fewer micro-operations left. -/
structure State.GoesOnIn (s t : State) : Prop where
  noReset : t.resetIn = none
  inProgress : t.pos.ph ≠ .idle
  sameOpc : t.opc = s.opc
  sameLen : t.len = s.len
  fewerLeft : t.opsLeft < s.opsLeft

/-- Within the block, the position alone says how many micro-operations are left. -/
theorem State.GoesOnIn.of_bi_eq (hr : t.resetIn = none) (hp : t.pos.ph ≠ .idle)
    (ho : t.opc = s.opc) (hl : t.len = s.len) (hb : t.pos.bi = s.pos.bi)
    (hops : t.pos.opsLeft < s.pos.opsLeft) : s.GoesOnIn t := by
  refine ⟨hr, hp, ho, hl, ?_⟩
  simp only [State.opsLeft, State.blocks, State.nblk, ho, hl, hb]
  omega

/-- A step ends the command or goes on in it. -/
theorem step_inCommand_ends_or_goesOn (hr : s.resetIn = none) (hp : s.pos.ph ≠ .idle)
    (h : step s = .next t) : t.endedWith s.finalOlen ∨ s.GoesOnIn t := by
  obtain ⟨hph, -, rfl⟩ | ⟨hph, rfl⟩ | ⟨hph, rfl⟩ | ⟨-, -, rfl⟩ | ⟨hph, hl, rfl⟩ :=
    step_inCommand_cases hr hp h
  · exact .inr (.of_bi_eq hr nofun s.buildBlock_opc s.buildBlock_len rfl
      (by simp [Pos.opsLeft, Pos.afterInit, hph]))
  · have hne : (s.pos.afterQr s.pos.qi).ph ≠ .idle := by
      obtain h | ⟨h, -⟩ := Pos.afterQr_ph s.pos s.pos.qi <;> simp [h]
    exact .inr (.of_bi_eq hr hne (s.quarterRound_opc _) (s.quarterRound_len _)
      (Pos.afterQr_bi s.pos s.pos.qi) (Pos.opsLeft_afterQr s.pos hph))
  · exact .inr (.of_bi_eq hr nofun s.addSaved_opc s.addSaved_len rfl
      (by simp [Pos.opsLeft, Pos.afterFinal, hph]))
  · exact .inl (State.completeBlocks_endedWith _ _)
  · obtain ⟨hne, hlt⟩ := State.lastBlock_false_iff.1 hl
    refine .inr ⟨by simpa using hr, nofun, s.storeBlock_opc, s.storeBlock_len, ?_⟩
    simp only [State.opsLeft, State.blocks, State.nblk, State.storeBlock_opc, State.storeBlock_len,
      Pos.opsLeft, Pos.nextBlock, hph, hne, if_false] at hlt ⊢
    omega

/-- A run of at most `m` steps leads to a state in which a command has ended with this `OLEN`,
through states in which it has not. -/
def State.endsWithin (s : State) (m : Nat) (v : Word) : Prop :=
  ∃ k t, k ≤ m ∧ Host.Core.run Sys2Proof.core k s = .next t ∧ t.endedWith v ∧
    ∀ j u, j < k → Host.Core.run Sys2Proof.core j s = .next u → u.pos.ph ≠ .idle

theorem State.endedWith.endsWithin (h : s.endedWith v) (m : Nat) : s.endsWithin m v :=
  ⟨0, s, Nat.zero_le m, rfl, h, fun _ _ hj => absurd hj (Nat.not_lt_zero _)⟩

theorem endsWithin_of_step (hp : s.pos.ph ≠ .idle) (hs : step s = .next t)
    (h : t.endsWithin m v) : s.endsWithin (m + 1) v := by
  obtain ⟨k, u, hk, hrun, hend, hearlier⟩ := h
  refine ⟨k + 1, u, Nat.succ_le_succ hk, (core_run_next hs k).trans hrun, hend, ?_⟩
  intro j w hj hw
  cases j with
  | zero =>
    cases hw
    exact hp
  | succ j =>
    rw [core_run_next hs] at hw
    exact hearlier j w (Nat.lt_of_succ_lt_succ hj) hw

/-- By induction on a bound of the micro-operations left. -/
theorem endsWithin_of_inCommand (m : Nat) (hs : s.Inv) (hr : s.resetIn = none)
    (hp : s.pos.ph ≠ .idle) (hm : s.opsLeft ≤ m) : s.endsWithin m s.finalOlen := by
  induction m generalizing s with
  | zero =>
    have hpos := Pos.opsLeft_pos hp
    rw [State.opsLeft] at hm
    omega
  | succ m ih =>
    obtain ⟨t, ht⟩ := step_inCommand_next hr hp (hs.inCommand hp)
    refine endsWithin_of_step hp ht ?_
    obtain hend | hgo := step_inCommand_ends_or_goesOn hr hp ht
    · exact hend.endsWithin m
    · have holen : t.finalOlen = s.finalOlen := by
        simp only [State.finalOlen, hgo.sameOpc, hgo.sameLen]
      rw [← holen]
      exact ih (step_inCommand_inv hs hr hp ht) hgo.noReset hgo.inProgress
        (Nat.le_of_lt_succ (hgo.fewerLeft.trans_le hm))

/-- Settles O51: every step leaves fewer micro-operations, of at most 83 a block. -/
theorem everyCommandEnds : Obligations.EveryCommandEnds := by
  intro s hs hr hp
  obtain ⟨k, t, hk, hrun, ⟨hpos, herr, holen⟩, hearlier⟩ :=
    endsWithin_of_inCommand s.opsLeft hs hr hp le_rfl
  exact ⟨k, t, hk.trans (hs.inCommand hp).opsLeft_le, hrun, hpos, herr, holen, hearlier⟩

end Sys2Proof.Machine
end
section
/-! The errors (R220 to R228): which words start no command, what the pre-checks report and in which
order, what a failed command leaves, and that no legal state faults. -/

namespace Sys2Proof

/-! ### Words that start no command (R85, R224) -/

/-- The two fields of a command word (R83, R84). -/
theorem Command.word_fields (c : Command) : c.word.extractLsb' 4 28 = 0 ∧
    c.word.extractLsb' 0 4 ≠ 0 ∧ (c.word.extractLsb' 0 4).toNat ≤ 5 := by
  cases c <;> decide

theorem Command.word_range (c : Command) : 1 ≤ c.word.toNat ∧ c.word.toNat ≤ 5 := by
  cases c <;> decide

theorem Command.two_le_word_iff (c : Command) : 2 ≤ c.word.toNat ↔ c ≠ .new := by
  cases c <;> decide

theorem Command.three_le_word_iff (c : Command) :
    3 ≤ c.word.toNat ↔ c = .keystream ∨ c = .encrypt ∨ c = .decrypt := by
  cases c <;> decide

theorem decodeCommand_eq_none {w : Word} (h : ∀ c : Command, w ≠ c.word) :
    decodeCommand w = none := by
  cases hd : decodeCommand w with
  | none => rfl
  | some c => exact absurd (Machine.word_eq_of_decodeCommand hd) (h c)

theorem exists_command_word {w : Word} (h1 : 1 ≤ w.toNat) (h5 : w.toNat ≤ 5) :
    ∃ c : Command, w = c.word := by
  have hw : w = 1 ∨ w = 2 ∨ w = 3 ∨ w = 4 ∨ w = 5 := by bv_omega
  obtain rfl | rfl | rfl | rfl | rfl := hw
  · exact ⟨.new, rfl⟩
  · exact ⟨.block, rfl⟩
  · exact ⟨.keystream, rfl⟩
  · exact ⟨.encrypt, rfl⟩
  · exact ⟨.decrypt, rfl⟩

end Sys2Proof

namespace Sys2Proof.Machine

variable {s t : State} {i : Instr} {c : Command} {e : ErrCode}

/-! ### Raising an error between commands (R228) -/

theorem State.raise_frame (hp : s.pos = Pos.idle) (e : ErrCode) :
    s.raise e =
      { s with err := e, olen := 0, valid := if e = .invalidKeyLength then false else s.valid,
               overflowMark := s.overflowMark || e == .counterOverflow } := by
  rw [State.raise, hp]

theorem State.fail_frame (hp : s.pos = Pos.idle) (e : ErrCode) :
    s.fail e =
      { s with err := e, olen := 0, valid := if e = .invalidKeyLength then false else s.valid,
               opc := (s.fail e).opc, draws := (s.fail e).draws,
               overflowMark := s.overflowMark || e == .counterOverflow } :=
  State.raise_frame (s := s.unlatchOpc) hp e

/-- Settles O19: the word decodes to no command, and the error raised is one that keeps `VALID` and
the model's overflow mark. -/
theorem illegalWordsRaiseIllegalCommand : Obligations.IllegalWordsRaiseIllegalCommand := by
  intro s w hp hw
  have hnone : decodeCommand w = none := by
    refine decodeCommand_eq_none ?_
    rintro c rfl
    obtain ⟨hzero, hopc, hle⟩ := c.word_fields
    obtain h | h | h := hw
    · exact h hzero
    · exact hopc h
    · exact hle.not_gt h
  refine ⟨_, execWr_cmd_illegal hnone s, ?_, rfl⟩
  rw [State.raise_frame (s := s.answerWrite) hp]
  simp [State.answerWrite, State.answeredAs]

/-! ### What the pre-checks report (R177, R227) -/

theorem State.precheck_notConfigured (hc : c ≠ .new) (hv : s.valid = false) :
    s.precheck c = some .notConfigured := by
  cases c with
  | new => exact absurd rfl hc
  | block => exact State.precheckBlock_fail hv
  | _ => exact State.precheckData_fail hv

theorem State.precheck_overflow (hd : c = .keystream ∨ c = .encrypt ∨ c = .decrypt)
    (hv : s.valid = true) (ho : counterOverflows s.len.toNat s.ctr = true) :
    s.precheck c = some .counterOverflow :=
  (precheck_dataCommand hd s).trans (State.precheckData_overflow hv ho)

theorem State.precheck_new_eq (h : s.precheck .new = some e) : e = .invalidKeyLength := by
  by_cases hk : s.klen = 32
  · cases (State.precheckNew_ok hk).symm.trans h
  · cases (State.precheckNew_fail hk).symm.trans h
    rfl

/-- `InvalidKeyLength` is the error of `NEW` and of no other command (R221, R227). -/
theorem State.precheck_keyLength_iff (h : s.precheck c = some e) :
    e = .invalidKeyLength ↔ c = .new := by
  constructor
  · rintro rfl
    exact State.eq_new_of_precheck h
  · rintro rfl
    exact State.precheck_new_eq h

/-- Settles O25: their pre-check asks for the instance first. -/
theorem commandsWithoutAnInstanceFail : Obligations.CommandsWithoutAnInstanceFail := by
  intro s c hc hv hp
  refine ⟨_, exec_command_fail (State.precheck_notConfigured hc hv), ?_, rfl⟩
  refine (State.fail_frame hp .notConfigured).trans ?_
  simp

/-- A write of `CMD` is always answered, whatever its word (R176, R224). -/
theorem execWr_cmd_next (w : Word) (s : State) : ∃ t, exec (.wr .cmd w) s = .next t := by
  obtain ⟨-, -, -, -, -, -, -, hnext⟩ := wrCmdStartsTheCommand s
  exact hnext w

/-- A write of a command word whose pre-check fails only raises the error. -/
theorem execWr_cmd_fail (hp : s.precheck c = some e) :
    exec (.wr .cmd c.word) s = .next (s.answerWrite.fail e) := by
  have hp' : s.answerWrite.precheck c = some e :=
    (State.precheck_congr rfl rfl rfl rfl c).trans hp
  rw [execWr_cmd_legal (decodeCommand_word c), exec_command_fail hp']

/-- Settles O27: a word outside 1 to 5 is no command's; any other word is a command's, and its
pre-check names the error. -/
theorem firstErrorThatHoldsIsReported : Obligations.FirstErrorThatHoldsIsReported := by
  intro s w
  obtain ⟨t, ht⟩ := execWr_cmd_next w s
  have reported {c : Command} {e : ErrCode} (hw : w = c.word) (hp : s.precheck c = some e) :
      t.err = e ∧ t.err.code = e.code := by
    subst hw
    cases (execWr_cmd_fail hp).symm.trans ht
    exact ⟨rfl, rfl⟩
  refine ⟨t, ht, fun hw => ?_, fun hw hk => ?_, fun h2 h5 hv => ?_, fun h3 h5 hv ho => ?_⟩
  · have hnone : decodeCommand w = none := by
      refine decodeCommand_eq_none ?_
      rintro c rfl
      have hrange := c.word_range
      bv_omega
    cases (execWr_cmd_illegal hnone s).symm.trans ht
    exact ⟨rfl, rfl⟩
  · exact reported (c := .new) hw (State.precheckNew_fail hk)
  · obtain ⟨c, rfl⟩ := exists_command_word (Nat.le_of_succ_le h2) h5
    exact reported rfl (State.precheck_notConfigured (c.two_le_word_iff.1 h2) hv)
  · obtain ⟨c, rfl⟩ := exists_command_word (by omega) h5
    exact reported rfl (State.precheck_overflow (c.three_le_word_iff.1 h3) hv ho)

/-! ### Failing or not (R223, R228) -/

/-- A command fails in its pre-check, or it leaves the overflow mark and either ends without an
error or starts the sequencer, which leaves `ERR` for the end of the command. -/
theorem CommandResult.failed_or_kept (h : CommandResult s c t) :
    (∃ e, s.precheck c = some e ∧ t = s.fail e) ∨
    t.overflowMark = s.overflowMark ∧
      (t.err = .ok ∨ t.err = s.err ∧ s.params.level = .sequenced) := by
  cases h with
  | failed _ e hp => exact .inl ⟨e, hp, rfl⟩
  | constructed => exact .inr ⟨rfl, .inl rfl⟩
  | blockComputed => exact .inr ⟨by simp, .inl (State.completeBlocks_err _ _)⟩
  | blockStarted _ hl => exact .inr ⟨rfl, .inr ⟨rfl, hl⟩⟩
  | nothingAsked => exact .inr ⟨rfl, .inl rfl⟩
  | dataComputed => exact .inr ⟨by simp, .inl (State.completeBlocks_err _ _)⟩
  | dataStarted _ _ _ _ hl => exact .inr ⟨rfl, .inr ⟨rfl, hl⟩⟩

/-- Settles O26: the pre-check's test is the exact sum, and no result after it sets the mark. -/
theorem counterOverflowIsReported : Obligations.CounterOverflowIsReported := by
  intro s c hd hv hp
  obtain ⟨t, ht⟩ := exec_command_next c s
  refine ⟨t, ht, ?_⟩
  split
  · next ho =>
    have hpre := State.precheck_overflow hd hv ((counterOverflows_iff _ _).2 ho)
    cases (exec_command_fail hpre).symm.trans ht
    refine ⟨(State.fail_frame hp .counterOverflow).trans ?_, rfl⟩
    simp
  · next ho =>
    have hpre : s.precheck c = none := by
      rw [precheck_dataCommand hd]
      exact State.precheckData_ok hv (Bool.eq_false_iff.2 (mt (counterOverflows_iff _ _).1 ho))
    obtain ⟨e, he, -⟩ | ⟨hmark, herr⟩ := (exec_commandResult ht).failed_or_kept
    · cases hpre.symm.trans he
    · exact ⟨hmark, herr.imp_right And.left⟩

/-- Settles O58: at the functional level an error comes from the pre-check, and `VALID` is cleared
for a key length only, which is the error of `NEW`. -/
theorem failedCommandsAreInert : Obligations.FailedCommandsAreInert := by
  intro s t c hl hp h herr
  obtain ⟨e, hpre, rfl⟩ | ⟨-, hok | ⟨-, hseq⟩⟩ := (exec_commandResult h).failed_or_kept
  · refine (State.fail_frame hp e).trans ?_
    simp only [State.precheck_keyLength_iff hpre, State.fail_err, State.fail_overflowMark]
  · exact absurd hok herr
  · cases hl.symm.trans hseq

/-! ### No fault (R226) -/

/-- A host transaction may be refused but never faults. -/
theorem exec_host_ne_fault (hf : i.format = .host) (s : State) (r : Fault) :
    exec i s ≠ .fault r := by
  cases i with
  | rd r => exact nofun
  | wr r v =>
    by_cases hr : r = .cmd
    · subst hr
      obtain ⟨t, ht⟩ := execWr_cmd_next v s
      rw [ht]
      exact nofun
    · have hnext : exec (.wr r v) s = .next (s.answerWrite.writeReg r v) := execWr_reg hr v s
      rw [hnext]
      exact nofun
  | win a b =>
    rw [exec, execWin]
    split <;> exact nofun
  | rout a =>
    rw [exec, execRout]
    split <;> exact nofun
  | _ => cases hf

/-- Between commands a step waits, refuses a reserved transaction or runs one (R64, R236). -/
theorem step_ready_ne_fault (hs : s.ready) (r : Fault) : step s ≠ .fault r := by
  cases hq : s.port with
  | nil =>
    rw [stepWaitsForTheHost s hs hq]
    exact nofun
  | cons w rest =>
    cases hd : decode .host w.toNat with
    | error e =>
      rw [step_reserved hs hq hd]
      exact nofun
    | ok i =>
      rw [step_transaction hs hq hd]
      exact exec_host_ne_fault (format_of_decode_host hd) _ r

/-- Settles O52: the one micro-operation that can fault is `U_INIT`, and in a command in progress
every block's counter is legal. -/
theorem legalStatesNeverFault : Obligations.LegalStatesNeverFault := by
  intro s r hs
  cases hr : s.resetIn with
  | some d =>
    rw [step_reset hr]
    exact nofun
  | none =>
    by_cases hp : s.pos.ph = .idle
    · exact step_ready_ne_fault ⟨hs.pos_eq_idle hp, hr⟩ r
    · obtain ⟨t, ht⟩ := step_inCommand_next hr hp (hs.inCommand hp)
      rw [ht]
      exact nofun

end Sys2Proof.Machine
end
section
/-! What a reset leaves for the commands (R38, R251): no instance, and a key length that is not 32. -/

namespace Sys2Proof.Machine

/-- Every command's pre-check fails after a reset: `KLEN` = 0 stops `NEW`, `VALID` = 0 the others. -/
theorem State.resetTo_precheck (p : Params) (d : ResetDraw) (c : Command) :
    (State.resetTo p d).precheck c =
      some (if c = .new then .invalidKeyLength else .notConfigured) := by
  split
  · next hc =>
    have hk : (State.resetTo p d).klen ≠ 32 := (by decide : (0 : Word) ≠ 32)
    subst hc
    exact State.precheckNew_fail hk
  · next hc => exact State.precheck_notConfigured hc rfl

/-- Settles O15: every pre-check fails, and a failing command never sets `VALID`. -/
theorem afterResetCommandsFail : Obligations.AfterResetCommandsFail := by
  intro p d c
  have hvalid (e : ErrCode) : ((State.resetTo p d).fail e).valid = false :=
    (State.fail_valid _ e).trans (ite_self false)
  exact ⟨_, exec_command_fail (State.resetTo_precheck p d c), rfl, hvalid _, rfl⟩

end Sys2Proof.Machine
end
